-- ==== Sys2Proof/Word.lean ====
section
/-! DEFINITION. The plain words of the machine: the byte, the 32-bit event counter, and the transport's error value. -/

namespace Sys2Proof

/-- `BYTE_W`: the width of every wire symbol and of CMD, LEN, IDX and ACC (`00_scope.md` R7). -/
abbrev Config.byteW : Nat := 8

/-- `CNT_W`: the width of each event counter (R7, `92_eei_decisions.md` D8). -/
abbrev Config.cntW : Nat := 32

/-- A byte: every wire symbol and every one of CMD, LEN, IDX, ACC is 8 bits wide (`00_scope.md` R7 `BYTE_W`, R12). -/
abbrev Byte := BitVec Config.byteW

/-- An event counter, `CNT_W` = 32 bits (`10_state.md` R36). -/
abbrev Count := BitVec Config.cntW

/-- The transport's error value `e`, "propagated verbatim" and inspected by no rule (`92_eei_decisions.md` D36).
DESIGN CHOICE, log 4: a natural number stands for it. -/
abbrev IoError := Nat

end Sys2Proof
end

