-- ==== Sys2Proof/Config.lean ====
section
/-! DEFINITION. The configuration: the named constants of `00_scope.md` R7, the closed variant sets, the code tables
that are parameters of the build (R96), the host's parameters, and the one free value. -/

namespace Sys2Proof

/-! The closed variant sets (`30_encoding.md` R97 to R99). -/

/-- The 14 Request variants, in the order of `30_encoding.md` R97. -/
inductive Request where
  | sendData | sendDataEx | setMode | reset | setChannel | setDestinationNetworkId | setDestinationAddress
  | setUserSetting | getUserSetting | rssi | shutdown | standby | transmitPower | factoryReset
  deriving DecidableEq, Repr

/-- The 13 Response variants: one for every Request except SendDataEx (`30_encoding.md` R98, `42_classify_route.md` R183,
decision D11 of the spec). -/
inductive Response where
  | sendData | setMode | reset | setChannel | setDestinationNetworkId | setDestinationAddress
  | setUserSetting | getUserSetting | rssi | shutdown | standby | transmitPower | factoryReset
  deriving DecidableEq, Repr

/-- The 5 Event variants (`30_encoding.md` R99). -/
inductive Event where
  | dataRepeat | dataReceived | reset | wakeup | packetTransmit
  deriving DecidableEq, Repr

/-- The Request that a Response mirrors (`30_encoding.md` R98, `42_classify_route.md` R183). -/
def Response.request : Response → Request
  | .sendData => .sendData
  | .setMode => .setMode
  | .reset => .reset
  | .setChannel => .setChannel
  | .setDestinationNetworkId => .setDestinationNetworkId
  | .setDestinationAddress => .setDestinationAddress
  | .setUserSetting => .setUserSetting
  | .getUserSetting => .getUserSetting
  | .rssi => .rssi
  | .shutdown => .shutdown
  | .standby => .standby
  | .transmitPower => .transmitPower
  | .factoryReset => .factoryReset

/-- Every Request variant once. -/
def Request.all : List Request :=
  [.sendData, .sendDataEx, .setMode, .reset, .setChannel, .setDestinationNetworkId, .setDestinationAddress,
   .setUserSetting, .getUserSetting, .rssi, .shutdown, .standby, .transmitPower, .factoryReset]

/-- Every Response variant once: `RESPONSE_SET` (R7; `42_classify_route.md` R183 settles its 13 members). -/
def Response.all : List Response :=
  [.sendData, .setMode, .reset, .setChannel, .setDestinationNetworkId, .setDestinationAddress,
   .setUserSetting, .getUserSetting, .rssi, .shutdown, .standby, .transmitPower, .factoryReset]

/-- Every Event variant once. -/
def Event.all : List Event := [.dataRepeat, .dataReceived, .reset, .wakeup, .packetTransmit]

/-- The table `CODE_REQ`: one byte for each Request variant (`30_encoding.md` R96). -/
structure ReqCodes where
  sendData : Byte
  sendDataEx : Byte
  setMode : Byte
  reset : Byte
  setChannel : Byte
  setDestinationNetworkId : Byte
  setDestinationAddress : Byte
  setUserSetting : Byte
  getUserSetting : Byte
  rssi : Byte
  shutdown : Byte
  standby : Byte
  transmitPower : Byte
  factoryReset : Byte
  deriving DecidableEq, Repr

/-- The table `CODE_RSP`: one byte for each Response variant (`30_encoding.md` R96). -/
structure RspCodes where
  sendData : Byte
  setMode : Byte
  reset : Byte
  setChannel : Byte
  setDestinationNetworkId : Byte
  setDestinationAddress : Byte
  setUserSetting : Byte
  getUserSetting : Byte
  rssi : Byte
  shutdown : Byte
  standby : Byte
  transmitPower : Byte
  factoryReset : Byte
  deriving DecidableEq, Repr

/-- The table `CODE_EVT`. PacketTransmit is a parameter without default (`30_encoding.md` R99): `none` is the partial map
that `93_implementation_defined.md` U18 allows, under which no frame is recognised as that variant. -/
structure EvtCodes where
  dataRepeat : Byte
  dataReceived : Byte
  reset : Byte
  wakeup : Byte
  packetTransmit : Option Byte
  deriving DecidableEq, Repr

/-- The table `SDE_CODES`: the status bytes of the five named `SendDataError` variants (`44_host_controller.md` R262). -/
structure SdeCodes where
  ackTimeout : Byte
  invalidChannel : Byte
  channelBusy : Byte
  moduleBusy : Byte
  payloadInvalid : Byte
  deriving DecidableEq, Repr

/-- `RESP_MISMATCH`: what the host does with a Response of a kind its command did not expect (`44_host_controller.md` R257). -/
inductive RespMismatch where
  | acceptAny | skipUntilMatch
  deriving DecidableEq, Repr

/-- `RESP_TIMEOUT`: no timeout at all, or a bounded wait; the block has no clock, so the bound's length is not state and an
expiry may come at any step of the wait (`44_host_controller.md` R265, D21). -/
inductive RespTimeout where
  | never | bounded
  deriving DecidableEq, Repr

/-- The parameters of `00_scope.md` R7 that an implementation may set without changing a width or a closed set. Constants: no
step writes them. Log 1 says why State carries them; `Config.parameters` joins them with the rows that are fixed. -/
structure Config where
  codeReq : ReqCodes
  codeRsp : RspCodes
  codeEvt : EvtCodes
  sdeCodes : SdeCodes
  respMismatch : RespMismatch
  respTimeout : RespTimeout
  deriving DecidableEq, Repr

namespace Config

/-- `START_BYTE` (R7). -/
abbrev startByte : Byte := 0x02#8

/-- `MAX_PAYLOAD_LEN` (R7, R8). -/
abbrev maxPayloadLen : Nat := 224

/-- `FRAME_OVERHEAD`: start, command id, length, checksum (R7). -/
abbrev frameOverhead : Nat := 4

/-- `MAX_FRAME_LEN` (R7). -/
abbrev maxFrameLen : Nat := frameOverhead + maxPayloadLen

/-- `RESP_DEPTH` (R7). -/
abbrev respDepth : Nat := 2

/-- `EVT_DEPTH` (R7). -/
abbrev evtDepth : Nat := 16

/-- `RESP_CODE_OFFSET`: what a Response code of the reference mapping has above its Request's code. Informative (R7, `30_encoding.md`
R96): no rule and no meaning uses it, and a table need not keep it. -/
abbrev respCodeOffset : Byte := 0x40#8

/-- `SEND_MAX`: the largest argument of `send` (R7, `44_host_controller.md` R258). -/
abbrev sendMax : Nat := 220

/-- `RSSI_UNAVAILABLE`: a caller-side convention that nothing in the block or the host tests (R7, `90_conflicts.md` C11). -/
abbrev rssiUnavailable : Byte := 0x80#8

/-- `CODE_REQ(k)` (`30_encoding.md` R96). -/
def req (c : Config) : Request → Byte
  | .sendData => c.codeReq.sendData
  | .sendDataEx => c.codeReq.sendDataEx
  | .setMode => c.codeReq.setMode
  | .reset => c.codeReq.reset
  | .setChannel => c.codeReq.setChannel
  | .setDestinationNetworkId => c.codeReq.setDestinationNetworkId
  | .setDestinationAddress => c.codeReq.setDestinationAddress
  | .setUserSetting => c.codeReq.setUserSetting
  | .getUserSetting => c.codeReq.getUserSetting
  | .rssi => c.codeReq.rssi
  | .shutdown => c.codeReq.shutdown
  | .standby => c.codeReq.standby
  | .transmitPower => c.codeReq.transmitPower
  | .factoryReset => c.codeReq.factoryReset

/-- `CODE_RSP(k)` (`30_encoding.md` R96). -/
def rsp (c : Config) : Response → Byte
  | .sendData => c.codeRsp.sendData
  | .setMode => c.codeRsp.setMode
  | .reset => c.codeRsp.reset
  | .setChannel => c.codeRsp.setChannel
  | .setDestinationNetworkId => c.codeRsp.setDestinationNetworkId
  | .setDestinationAddress => c.codeRsp.setDestinationAddress
  | .setUserSetting => c.codeRsp.setUserSetting
  | .getUserSetting => c.codeRsp.getUserSetting
  | .rssi => c.codeRsp.rssi
  | .shutdown => c.codeRsp.shutdown
  | .standby => c.codeRsp.standby
  | .transmitPower => c.codeRsp.transmitPower
  | .factoryReset => c.codeRsp.factoryReset

/-- `CODE_EVT(k)`, where the configuration gives it (`30_encoding.md` R96, R99). -/
def evt (c : Config) : Event → Option Byte
  | .dataRepeat => some c.codeEvt.dataRepeat
  | .dataReceived => some c.codeEvt.dataReceived
  | .reset => some c.codeEvt.reset
  | .wakeup => some c.codeEvt.wakeup
  | .packetTransmit => c.codeEvt.packetTransmit

/-- The image of `CODE_RSP` and `CODE_EVT`: the command ids that are known on receive (`30_encoding.md` R102). -/
def rxCodes (c : Config) : List Byte :=
  Response.all.map c.rsp ++ Event.all.filterMap c.evt

/-- The five status bytes of `SDE_CODES`. -/
def sdeList (c : Config) : List Byte :=
  [c.sdeCodes.ackTimeout, c.sdeCodes.invalidChannel, c.sdeCodes.channelBusy, c.sdeCodes.moduleBusy,
   c.sdeCodes.payloadInvalid]

/-- The constraints of `30_encoding.md` R96 (Response and Event codes injective with disjoint images, Request codes
injective) and of `44_host_controller.md` R262 (`SDE_CODES` injective and non-zero). -/
abbrev WellFormed (c : Config) : Prop :=
  (Request.all.map c.req).Nodup ∧ c.rxCodes.Nodup ∧ c.sdeList.Nodup ∧ 0#8 ∉ c.sdeList

/-- `REFCODES` with the other defaults of the spec (`30_encoding.md` R97 to R99, `44_host_controller.md` R257, R262).
PRESUMED, logs 1 to 3: the spec marks the codes as general knowledge; PacketTransmit has none; RESP_TIMEOUT is left open
by the spec and set to a bounded wait. -/
def reference : Config where
  codeReq :=
    { sendData := 0x00#8, sendDataEx := 0x01#8, setMode := 0x04#8, reset := 0x05#8, setChannel := 0x06#8
      setDestinationNetworkId := 0x07#8, setDestinationAddress := 0x08#8, setUserSetting := 0x09#8
      getUserSetting := 0x0A#8, rssi := 0x0D#8, shutdown := 0x0E#8, standby := 0x0F#8
      transmitPower := 0x11#8, factoryReset := 0x12#8 }
  codeRsp :=
    { sendData := 0x40#8, setMode := 0x44#8, reset := 0x45#8, setChannel := 0x46#8
      setDestinationNetworkId := 0x47#8, setDestinationAddress := 0x48#8, setUserSetting := 0x49#8
      getUserSetting := 0x4A#8, rssi := 0x4D#8, shutdown := 0x4E#8, standby := 0x4F#8
      transmitPower := 0x51#8, factoryReset := 0x52#8 }
  codeEvt :=
    { dataRepeat := 0x80#8, dataReceived := 0x81#8, reset := 0x85#8, wakeup := 0x8F#8, packetTransmit := none }
  sdeCodes :=
    { ackTimeout := 0x01#8, invalidChannel := 0x02#8, channelBusy := 0x03#8, moduleBusy := 0x04#8
      payloadInvalid := 0xFF#8 }
  respMismatch := .acceptAny
  respTimeout := .bounded

/-- The one configuration record of `00_scope.md` R7: a field for each row of its table, in its order. -/
structure Parameters where
  startByte : Byte
  maxPayloadLen : Nat
  frameOverhead : Nat
  maxFrameLen : Nat
  respDepth : Nat
  evtDepth : Nat
  byteW : Nat
  codeReq : ReqCodes
  codeRsp : RspCodes
  codeEvt : EvtCodes
  responseSet : List Response
  respCodeOffset : Byte
  cntW : Nat
  sendMax : Nat
  rssiUnavailable : Byte
  respTimeout : RespTimeout
  respMismatch : RespMismatch
  sdeCodes : SdeCodes
  deriving DecidableEq, Repr

/-- Every parameter of the build, from the rows whose value R7 fixes (each a named constant above, substitutable in that one
place, as `92_eei_decisions.md` D40 asks) and those that the configuration gives. -/
def parameters (c : Config) : Parameters where
  startByte := startByte
  maxPayloadLen := maxPayloadLen
  frameOverhead := frameOverhead
  maxFrameLen := maxFrameLen
  respDepth := respDepth
  evtDepth := evtDepth
  byteW := byteW
  codeReq := c.codeReq
  codeRsp := c.codeRsp
  codeEvt := c.codeEvt
  responseSet := Response.all
  respCodeOffset := respCodeOffset
  cntW := cntW
  sendMax := sendMax
  rssiUnavailable := rssiUnavailable
  respTimeout := c.respTimeout
  respMismatch := c.respMismatch
  sdeCodes := c.sdeCodes

/-- The free value: what CMD, LEN and ACC hold after RESTART, which `60_exceptions.md` R307 leaves unspecified. It has no
body, so nothing can be proved of a value of it; the step applies it to the counter `fresh` of State (log 7). -/
opaque freeByte : Nat → Byte

end Config

end Sys2Proof
end

