-- ==== Sys2Proof/Syntax.lean ====
section
/-! DEFINITION. The instructions: one constructor for each of the 35 rows of `spec/opcode_table.json` (R2, R108).
The opcode of a frame is its COMMAND_ID; its operand is its payload. -/

namespace Sys2Proof

/-- The instruction set. `req…` rows are frames the host transmits (R126 to R139), `rsp…` and `evt…` rows frames the
ingress machine accepts (R185 to R197, R199 to R203), and the three `rx…` rows the non-variant byte classes of R100 to R102.
A frame's operand is the payload (`req…`) or `data` (`rsp…`, `evt…`), 0 to 224 bytes, opaque to the codec. -/
inductive Instr where
  | reqSendData (payload : List Byte)
  | reqSendDataEx (payload : List Byte)
  | reqSetMode (payload : List Byte)
  | reqReset (payload : List Byte)
  | reqSetChannel (payload : List Byte)
  | reqSetDestinationNetworkId (payload : List Byte)
  | reqSetDestinationAddress (payload : List Byte)
  | reqSetUserSetting (payload : List Byte)
  | reqGetUserSetting (payload : List Byte)
  | reqRssi (payload : List Byte)
  | reqShutdown (payload : List Byte)
  | reqStandby (payload : List Byte)
  | reqTransmitPower (payload : List Byte)
  | reqFactoryReset (payload : List Byte)
  | rspSendData (data : List Byte)
  | rspSetMode (data : List Byte)
  | rspReset (data : List Byte)
  | rspSetChannel (data : List Byte)
  | rspSetDestinationNetworkId (data : List Byte)
  | rspSetDestinationAddress (data : List Byte)
  | rspSetUserSetting (data : List Byte)
  | rspGetUserSetting (data : List Byte)
  | rspRssi (data : List Byte)
  | rspShutdown (data : List Byte)
  | rspStandby (data : List Byte)
  | rspTransmitPower (data : List Byte)
  | rspFactoryReset (data : List Byte)
  | evtDataRepeat (data : List Byte)
  | evtDataReceived (data : List Byte)
  | evtReset (data : List Byte)
  | evtWakeup (data : List Byte)
  | evtPacketTransmit (data : List Byte)
  /-- A byte other than START met in phase SEEK (R100, R152). -/
  | rxResyncByte (b : Byte)
  /-- A header whose LENGTH `l` is above 224, with any COMMAND_ID `c` (R101, R158). -/
  | rxIllegalLength (c l : Byte)
  /-- A frame with a valid checksum whose COMMAND_ID `c` is no Response or Event code (R102, R207). -/
  | rxUnknownId (c : Byte) (data : List Byte)
  deriving DecidableEq, Repr

/-- The six shapes the 35 rows fall into (the `set` of a row): what the codec and the machine distinguish. -/
inductive Form where
  | request (k : Request) (payload : List Byte)
  | response (k : Response) (data : List Byte)
  | event (k : Event) (data : List Byte)
  | resync (b : Byte)
  | illegalLength (c l : Byte)
  | unknownId (c : Byte) (data : List Byte)
  deriving DecidableEq, Repr

/-- The direction a row's words travel in (`30_encoding.md` R93): `tx` from host to device, `rx` from device to host. -/
inductive Direction where
  | tx | rx
  deriving DecidableEq, Repr

/-- The shape of an instruction. -/
def Instr.form : Instr → Form
  | .reqSendData p => .request .sendData p
  | .reqSendDataEx p => .request .sendDataEx p
  | .reqSetMode p => .request .setMode p
  | .reqReset p => .request .reset p
  | .reqSetChannel p => .request .setChannel p
  | .reqSetDestinationNetworkId p => .request .setDestinationNetworkId p
  | .reqSetDestinationAddress p => .request .setDestinationAddress p
  | .reqSetUserSetting p => .request .setUserSetting p
  | .reqGetUserSetting p => .request .getUserSetting p
  | .reqRssi p => .request .rssi p
  | .reqShutdown p => .request .shutdown p
  | .reqStandby p => .request .standby p
  | .reqTransmitPower p => .request .transmitPower p
  | .reqFactoryReset p => .request .factoryReset p
  | .rspSendData d => .response .sendData d
  | .rspSetMode d => .response .setMode d
  | .rspReset d => .response .reset d
  | .rspSetChannel d => .response .setChannel d
  | .rspSetDestinationNetworkId d => .response .setDestinationNetworkId d
  | .rspSetDestinationAddress d => .response .setDestinationAddress d
  | .rspSetUserSetting d => .response .setUserSetting d
  | .rspGetUserSetting d => .response .getUserSetting d
  | .rspRssi d => .response .rssi d
  | .rspShutdown d => .response .shutdown d
  | .rspStandby d => .response .standby d
  | .rspTransmitPower d => .response .transmitPower d
  | .rspFactoryReset d => .response .factoryReset d
  | .evtDataRepeat d => .event .dataRepeat d
  | .evtDataReceived d => .event .dataReceived d
  | .evtReset d => .event .reset d
  | .evtWakeup d => .event .wakeup d
  | .evtPacketTransmit d => .event .packetTransmit d
  | .rxResyncByte b => .resync b
  | .rxIllegalLength c l => .illegalLength c l
  | .rxUnknownId c d => .unknownId c d

/-- The instruction that transmits the Request variant `k` with this payload. -/
def Instr.ofRequest : Request → List Byte → Instr
  | .sendData => .reqSendData
  | .sendDataEx => .reqSendDataEx
  | .setMode => .reqSetMode
  | .reset => .reqReset
  | .setChannel => .reqSetChannel
  | .setDestinationNetworkId => .reqSetDestinationNetworkId
  | .setDestinationAddress => .reqSetDestinationAddress
  | .setUserSetting => .reqSetUserSetting
  | .getUserSetting => .reqGetUserSetting
  | .rssi => .reqRssi
  | .shutdown => .reqShutdown
  | .standby => .reqStandby
  | .transmitPower => .reqTransmitPower
  | .factoryReset => .reqFactoryReset

/-- The instruction that delivers the Response variant `k` with this data. -/
def Instr.ofResponse : Response → List Byte → Instr
  | .sendData => .rspSendData
  | .setMode => .rspSetMode
  | .reset => .rspReset
  | .setChannel => .rspSetChannel
  | .setDestinationNetworkId => .rspSetDestinationNetworkId
  | .setDestinationAddress => .rspSetDestinationAddress
  | .setUserSetting => .rspSetUserSetting
  | .getUserSetting => .rspGetUserSetting
  | .rssi => .rspRssi
  | .shutdown => .rspShutdown
  | .standby => .rspStandby
  | .transmitPower => .rspTransmitPower
  | .factoryReset => .rspFactoryReset

/-- The instruction that delivers the Event variant `k` with this data. -/
def Instr.ofEvent : Event → List Byte → Instr
  | .dataRepeat => .evtDataRepeat
  | .dataReceived => .evtDataReceived
  | .reset => .evtReset
  | .wakeup => .evtWakeup
  | .packetTransmit => .evtPacketTransmit

/-- The instruction of a shape. -/
def Form.toInstr : Form → Instr
  | .request k p => .ofRequest k p
  | .response k d => .ofResponse k d
  | .event k d => .ofEvent k d
  | .resync b => .rxResyncByte b
  | .illegalLength c l => .rxIllegalLength c l
  | .unknownId c d => .rxUnknownId c d

/-- Requests travel to the device; everything else is received (`30_encoding.md` R93, R108). -/
def Instr.direction (i : Instr) : Direction :=
  match i.form with
  | .request _ _ => .tx
  | _ => .rx

end Sys2Proof
end

