-- ==== Sys2Proof/WellFormed.lean ====
section
/-! DEFINITION. When an instruction is well-formed: the constraints that the rows of the opcode table list beside their
bit patterns (R108), under a configuration's code tables. -/

namespace Sys2Proof

/-- The payload bound of every frame (`00_scope.md` R8, `30_encoding.md` R101). -/
abbrev PayloadFits (p : List Byte) : Prop := p.length ≤ Config.maxPayloadLen

/-- The constraints of each row: a payload of at most 224 bytes; an Event variant that the configuration gives a code;
a resynchronisation byte other than START; an illegal LENGTH above 224; an unknown id outside the images of CODE_RSP and
CODE_EVT. -/
def Form.wf (c : Config) : Form → Bool
  | .request _ p => decide (PayloadFits p)
  | .response _ d => decide (PayloadFits d)
  | .event k d => decide (PayloadFits d) && (c.evt k).isSome
  | .resync b => decide (b ≠ Config.startByte)
  | .illegalLength _ l => decide (Config.maxPayloadLen < l.toNat)
  | .unknownId code d => decide (PayloadFits d) && decide (code ∉ c.rxCodes)

/-- An instruction is well-formed when its shape is. -/
def Instr.wf (c : Config) (i : Instr) : Bool := i.form.wf c

end Sys2Proof
end

