-- ==== Sys2Proof/Decode.lean ====
section
/-! DEFINITION. The frame codec: checksum, the decoders (header, slice, stream), classification, then the encoder, and
the reading of an opcode-table word. All pure functions, total on any bytes (`10_state.md` R20). -/

namespace Sys2Proof

/-! Checksum and frame layout. -/

/-- `checksum(s)`, the exclusive-or of all bytes, `0x00` for the empty slice (`40_encode.md` R120). -/
def checksum : List Byte → Byte
  | [] => 0#8
  | b :: s => b ^^^ checksum s

/-- The bytes of a frame before its checksum: START, COMMAND_ID, LENGTH, payload (`30_encoding.md` R91). -/
def frameBody (code : Byte) (payload : List Byte) : List Byte :=
  Config.startByte :: code :: BitVec.ofNat 8 payload.length :: payload

/-- `FRAME(code, payload)` (`30_encoding.md` R106). -/
def frame (code : Byte) (payload : List Byte) : List Byte :=
  frameBody code payload ++ [checksum (frameBody code payload)]

/-- A wire frame is well-formed when START, LENGTH, its own length and its exclusive-or are right (`30_encoding.md` R92). -/
def frameWf : List Byte → Bool
  | s :: c :: l :: rest =>
    decide (s = Config.startByte) && decide (l.toNat ≤ Config.maxPayloadLen) &&
      decide (rest.length + 3 = Config.frameOverhead + l.toNat) && decide (checksum (s :: c :: l :: rest) = 0#8)
  | _ => false

/-! Decoding. -/

/-- Why bytes are not a frame (`41_ingress.md` R167), with the two causes a decoder of this file adds by name. -/
inductive DecodeError where
  /-- Fewer bytes than the frame needs: R167's check 1, and of a stream that its next unit is not complete yet. -/
  | truncated
  /-- The first byte is not START. -/
  | startByte
  /-- LENGTH is above 224. -/
  | payloadLength
  /-- The slice's length is not `4 + LENGTH`. -/
  | lengthMismatch
  /-- The last byte is not the exclusive-or of the bytes before it. -/
  | checksum
  /-- On the transmit side: the command id is no Request code (`30_encoding.md` R93). -/
  | unknownRequest
  deriving DecidableEq, Repr

/-- `decode_header(h)` on the three header bytes: it does not look at START (`30_encoding.md` R94, R95). -/
def decodeHeader (_start commandId length : Byte) : Except DecodeError (Byte × Nat) :=
  if Config.maxPayloadLen < length.toNat then .error .payloadLength else .ok (commandId, length.toNat)

/-- `decode_frame(w)`: the five checks in order, first failure wins (`41_ingress.md` R167). -/
def decodeFrame (w : List Byte) : Except DecodeError (Byte × List Byte) :=
  if w.length < Config.frameOverhead then .error .truncated
  else
    match w with
    | s :: c :: l :: rest =>
      if s ≠ Config.startByte then .error .startByte
      else if Config.maxPayloadLen < l.toNat then .error .payloadLength
      else if w.length ≠ Config.frameOverhead + l.toNat then .error .lengthMismatch
      else if checksum w.dropLast ≠ w.getLastD 0#8 then .error .checksum
      else .ok (c, rest.take l.toNat)
    | _ => .error .truncated

/-- The answer of the classifier (`42_classify_route.md` R181). -/
inductive Class where
  | response (k : Response)
  | event (k : Event)
  | unknown
  deriving DecidableEq, Repr

/-- `classify(command_id)`: total, from the code tables alone (`42_classify_route.md` R181, R182). -/
def classify (cfg : Config) (code : Byte) : Class :=
  match Response.all.find? (fun k => decide (cfg.rsp k = code)) with
  | some k => .response k
  | none =>
    match Event.all.find? (fun k => decide (cfg.evt k = some code)) with
    | some k => .event k
    | none => .unknown

/-- The Request variant that has this code (`30_encoding.md` R97): how the far end reads a transmitted frame. -/
def requestOf (cfg : Config) (code : Byte) : Option Request :=
  Request.all.find? (fun k => decide (cfg.req k = code))

/-- The instruction an accepted frame stands for: its classification with its data (R180, R204, R209). -/
def acceptedInstr (cfg : Config) (code : Byte) (data : List Byte) : Instr :=
  match classify cfg code with
  | .response k => .ofResponse k data
  | .event k => .ofEvent k data
  | .unknown => .rxUnknownId code data

/-- One frame at the head of a stream whose first byte is START: its code, its payload and the bytes after it
(`30_encoding.md` R105: the length comes from the third byte, and no delimiter is looked for). -/
def splitFrame (w : List Byte) : Except DecodeError (Byte × List Byte × List Byte) :=
  match w with
  | s :: c :: l :: rest =>
    if s ≠ Config.startByte then .error .startByte
    else if Config.maxPayloadLen < l.toNat then .error .payloadLength
    else
      match rest.drop l.toNat with
      | [] => .error .truncated
      | k :: after =>
        if k = checksum (s :: c :: l :: rest.take l.toNat) then .ok (c, rest.take l.toNat, after)
        else .error .checksum
  | _ => .error .truncated

/-- The receive decoder: the next instruction of a byte stream met in phase SEEK, and the bytes after it. A byte other
than START is one instruction (R152); a header with LENGTH above 224 is one (R158); else a whole frame, by its checksum
(R156) and its classification (R181). -/
def decodeRx (cfg : Config) (w : List Byte) : Except DecodeError (Instr × List Byte) :=
  match w with
  | [] => .error .truncated
  | b :: rest =>
    if b ≠ Config.startByte then .ok (.rxResyncByte b, rest)
    else
      match splitFrame (b :: rest) with
      | .ok (c, data, after) => .ok (acceptedInstr cfg c data, after)
      | .error .payloadLength =>
        match rest with
        | c :: l :: after => .ok (.rxIllegalLength c l, after)
        | _ => .error .truncated
      | .error e => .error e

/-- The transmit decoder: the Request frame at the head of a transmitted byte stream, and the bytes after it. -/
def decodeTx (cfg : Config) (w : List Byte) : Except DecodeError (Instr × List Byte) :=
  match splitFrame w with
  | .error e => .error e
  | .ok (c, payload, after) =>
    match requestOf cfg c with
    | some k => .ok (.ofRequest k payload, after)
    | none => .error .unknownRequest

/-- The decoder of each direction (R93: the format does not carry the direction, only the code does). -/
def decode (cfg : Config) : Direction → List Byte → Except DecodeError (Instr × List Byte)
  | .tx => decodeTx cfg
  | .rx => decodeRx cfg

/-! Encoding. -/

/-- The bytes of each shape; none for an Event variant the configuration gives no code (R99). -/
def Form.encode (cfg : Config) : Form → Option (List Byte)
  | .request k p => some (frame (cfg.req k) p)
  | .response k d => some (frame (cfg.rsp k) d)
  | .event k d => (cfg.evt k).map (fun code => frame code d)
  | .resync b => some [b]
  | .illegalLength c l => some [Config.startByte, c, l]
  | .unknownId c d => some (frame c d)

/-- The words of an instruction (R106 for the frames; R100, R101 for the byte classes). -/
def encode (cfg : Config) (i : Instr) : Option (List Byte) := i.form.encode cfg

/-! Opcode-table words. -/

/-- The bytes of a table word in wire order: the first wire byte is the most significant (`30_encoding.md` R108: bits 23
to 16 START, 15 to 8 COMMAND_ID, 7 to 0 LENGTH). Log 10. -/
def wordBytes : Nat → Nat → List Byte
  | 0, _ => []
  | n + 1, w => BitVec.ofNat 8 (w >>> (8 * n)) :: wordBytes n w

/-- A header completed to the frame it begins: payload bytes of zero where the word gives none, then the checksum, which
the row's constraint fixes from the bytes before it (R103, R108). Log 9. -/
def completeFrame : List Byte → List Byte
  | s :: c :: l :: rest =>
    if Config.maxPayloadLen < l.toNat ∨ l.toNat < rest.length then s :: c :: l :: rest
    else
      let payload := (rest ++ List.replicate l.toNat 0#8).take l.toNat
      s :: c :: l :: payload ++ [checksum (s :: c :: l :: payload)]
  | w => w

/-- A table word under a configuration: as the receive decoder reads it, but a frame unknown on receive whose code is a
Request code is the Request row, which describes the transmit direction (`30_encoding.md` R108). Log 10. -/
def decodeWordWith (cfg : Config) (nbits w : Nat) : Option Instr :=
  let bytes := completeFrame (wordBytes (nbits / 8) w)
  match decodeRx cfg bytes with
  | .ok (.rxUnknownId c d, _) =>
    match decodeTx cfg bytes with
    | .ok (i, _) => some i
    | .error _ => some (.rxUnknownId c d)
  | .ok (i, _) => some i
  | .error _ => none

/-- The instruction a table word stands for under `REFCODES`. -/
def decodeTableWord (nbits w : Nat) : Option Instr := decodeWordWith Config.reference nbits w

end Sys2Proof
end

