-- ==== Sys2Proof/Machine/State.lean ====
section
/-! DEFINITION. The state of the machine as plain data, the reasons a step can stop, and the state after reset. -/

namespace Sys2Proof.Machine

/-! Ingress registers and streams. -/

/-- PHASE, the sequencing register of the ingress machine (`10_state.md` R22). -/
inductive Phase where
  | seek | cmd | len | payload | chk | halt
  deriving DecidableEq, Repr

/-- ERR, the fatal-error latch (`10_state.md` R28). -/
inductive Err where
  | none
  | payloadLength
  | io (e : IoError)
  deriving DecidableEq, Repr

/-- One element of the receive stream (`20_memory.md` R60). -/
inductive Symbol where
  | byte (b : Byte)
  | ioErr (e : IoError)
  deriving DecidableEq, Repr

/-- A byte memory: (address, byte) pairs, addresses strictly rising. An address that is not listed holds no value: reading
it is a fault (log 6), so no entry can equal what an unlisted address reads as. -/
abbrev Memory := List Host.Cell

/-! Channels. -/

/-- `Frame<K>`: a variant of the closed set and a byte sequence of at most 224 bytes (`10_state.md` R31). -/
structure Frame (K : Type) where
  command : K
  data : List Byte
  deriving DecidableEq, Repr

/-- One of the two channels with its waiter flag, its drop counter and its consumer's view of it (`43_channels.md` R220: every
rule of the channels is written for a queue `Q`, a flag `WAIT` and a counter `DROP_CNT`). -/
structure Channel (K : Type) where
  /-- RQ or EQ, head first (`10_state.md` R32). -/
  queue : List (Frame K)
  /-- RWAIT or EWAIT: the consumer is suspended inside `wait_and_pop` (`10_state.md` R34). -/
  wait : Bool
  /-- The consumer was woken and has not yet completed its `wait_and_pop` (`43_channels.md` R226, R227). Log 15. -/
  woken : Bool
  /-- RDROP_CNT or EDROP_CNT (`10_state.md` R36). -/
  dropCnt : Count
  /-- The frames the consumer has dequeued so far, in order (`00_scope.md` R11). Log 18. -/
  out : List (Frame K)
  deriving DecidableEq, Repr

/-! The host agent. -/

/-- The ten command methods, each with the argument byte its success test needs (`44_host_controller.md` R250, R251). -/
inductive Command where
  | send | reset | factoryReset | standby | rssi
  | txPower (p : Byte)
  | channel (ch : Byte)
  | destinationNet | destinationAddress | mode
  deriving DecidableEq, Repr

/-- A call of a command method with its arguments (`44_host_controller.md` R267 to R276). The value of `mode` is one opaque
byte (decision D29). -/
inductive Call where
  | send (bytes : List Byte)
  | reset | factoryReset | standby | rssi
  | txPower (p : Byte)
  | channel (ch : Byte)
  | destinationNet (id : Byte)
  | destinationAddress (a : Byte)
  | mode (m : Byte)
  deriving DecidableEq, Repr

/-- INFLIGHT: the one request awaiting its Response (`44_host_controller.md` R251). -/
inductive Inflight where
  | idle
  | awaiting (c : Command)
  deriving DecidableEq, Repr

/-- `SendDataError` (`44_host_controller.md` R261). -/
inductive SendDataError where
  | ackTimeout | invalidChannel | channelBusy | moduleBusy | payloadInvalid
  | other (raw : Byte)
  deriving DecidableEq, Repr

/-- The detail of `Error::Status`: a `SendDataError` for `send`, an opaque unit for every other method (R260). -/
inductive StatusDetail where
  | sendData (e : SendDataError)
  | unit
  deriving DecidableEq, Repr

/-- What a host operation returns (`44_host_controller.md` R256, R260, R278). -/
inductive HostResult where
  | ok
  | byte (b : Byte)
  | ioError (e : IoError)
  | status (d : StatusDetail)
  | timeout
  deriving DecidableEq, Repr

/-- What the transport answers to the next write: it takes all bytes, or it fails with `e` after `sent` of them, a number
the host does not learn (`20_memory.md` R62, `44_host_controller.md` R254, U12). -/
inductive WriteAnswer where
  | accepts
  | fails (sent : Nat) (e : IoError)
  deriving DecidableEq, Repr

/-! The schedule. -/

/-- One atomic move of one agent (`00_scope.md` R10, `20_memory.md` R72). A move of an agent that is not enabled is a turn in
which nothing happens. Log 8. -/
inductive Move where
  /-- Ingress: take one symbol (R150). -/
  | ingress
  /-- Device and transport: a symbol arrives on RX (R60). -/
  | device (sym : Symbol)
  /-- Transport: how the write half answers from now on (R62). -/
  | transport (a : WriteAnswer)
  /-- The caller of `encode` supplies a buffer with these contents (R64). -/
  | buffer (bytes : List Byte)
  /-- Host: encode a Request frame and write it, without a method (R277; the only way for the four kinds that have none).
  It does not count as in flight: log 24. -/
  | request (k : Request) (payload : List Byte)
  /-- Host: begin a command method: step 1 of R252. -/
  | call (c : Call)
  /-- Host: the next step of the transaction in flight: steps 2 and 3 of R252. -/
  | host
  /-- Host: the bounded wait expires (R265). -/
  | timeout
  /-- Host: `pop(RQ)` (R223). -/
  | popResponse
  /-- EventCaller: `next_event()` (R263). -/
  | nextEvent
  /-- EventCaller: its next step after a wake (R227). -/
  | eventCaller
  /-- EventCaller: `pop(EQ)` (R223). -/
  | popEvent
  /-- The spawner of the ingress task: RESTART (R307). -/
  | restart
  deriving DecidableEq, Repr

/-! The state. -/

/-- Everything the spec gives the machine, its environment included (R20, R21). -/
structure State where
  /-- PHASE (R22). -/
  phase : Phase
  /-- CMD (R23). -/
  cmd : Byte
  /-- LEN (R24). -/
  len : Byte
  /-- IDX (R25). -/
  idx : Byte
  /-- ACC (R26). -/
  acc : Byte
  /-- BUF, addresses 0 to 223 (R27). -/
  buf : Memory
  /-- ERR (R28). -/
  err : Err
  /-- The Response channel: RQ, RWAIT, RDROP_CNT (R32, R34, R36). -/
  rch : Channel Response
  /-- The Event channel: EQ, EWAIT, EDROP_CNT (R32, R34, R36). -/
  ech : Channel Event
  /-- CHKERR_CNT (R36). -/
  chkerrCnt : Count
  /-- UNKNOWN_CNT (R36). -/
  unknownCnt : Count
  /-- RESYNC_CNT (R36). -/
  resyncCnt : Count
  /-- The unread remainder of the receive stream, next symbol first (R21, R60). -/
  rx : List Symbol
  /-- The transmit log: every byte handed to the transport's write half (R21, R62). -/
  tx : List Byte
  /-- INFLIGHT (R251). -/
  inflight : Inflight
  /-- ENC, the encode buffer (R64). -/
  enc : Memory
  /-- The size of the encode buffer the caller supplied (R124). -/
  encCap : Nat
  /-- The transport's answer to the next write (R62, U12). Log 12. -/
  txPort : WriteAnswer
  /-- What host operations have returned, in order (R278). Log 18. -/
  results : List HostResult
  /-- The parameters of the build (R7, R21). Log 1. -/
  cfg : Config
  /-- The schedule: the moves to come, the next one first (R72). Log 8. -/
  sched : List Move
  /-- The model's own counter for the free values (log 7). -/
  fresh : Nat
  deriving DecidableEq, Repr

/-! Why a step stops. -/

/-- The caller's contract violations of `encode` (`40_encode.md` R123, R124). -/
inductive EncodeFault where
  | payloadTooLong
  | bufferTooShort
  deriving DecidableEq, Repr

/-- The faults. -/
inductive Fault where
  /-- Raised by a Request frame whose payload is over 224 bytes or over the caller's buffer, and by `send` with more than 220
  bytes (R123, R124, R258). Safe: the spec gives the call no successor but the fault mark. -/
  | encodeContract (v : EncodeFault)
  /-- Raised by accepting a frame when a byte of `BUF[0..LEN)` was never written. Safe: no reachable state does it (R27). -/
  | bufUnwritten
  /-- Raised by storing a payload byte at an address above 223. Safe: no reachable state does it (R63). -/
  | bufRange
  deriving DecidableEq, Repr

/-- The refusals. -/
inductive Refusal where
  /-- An instruction the model has no meaning for. Safe. -/
  | notModelled (mnemonic : String)
  /-- Raised by starting a command, or writing a Request, while one is in flight: the host has no such step (R253, U4).
  Safe. -/
  | commandInFlight
  /-- Raised by interpreting a dequeued Response with empty data: it has no status byte and the spec gives no meaning
  (R259, U5). Safe. -/
  | emptyStatus
  /-- Raised by a queue operation of a consumer that is still inside `wait_and_pop` on that queue (R341, U7, U8). Safe. -/
  | consumerBusy
  deriving DecidableEq, Repr

/-- A fresh channel: empty, nobody waiting, nothing dropped, nothing dequeued (`10_state.md` R41). -/
def Channel.empty {K : Type} : Channel K where
  queue := []
  wait := false
  woken := false
  dropCnt := 0#Config.cntW
  out := []

/-- The machine right after RESET (`10_state.md` R41, `70_reset_and_hazards.md` R330, R333). The spec leaves CMD, LEN, ACC and
BUF unspecified: log 5 names 0x00 for the three registers, log 6 leaves BUF without values. The environment's fields start
as logs 1, 8, 9, 11, 12 and 18 say. -/
def State.reset : State where
  phase := .seek
  cmd := 0x00#8
  len := 0x00#8
  idx := 0x00#8
  acc := 0x00#8
  buf := []
  err := .none
  rch := .empty
  ech := .empty
  chkerrCnt := 0#Config.cntW
  unknownCnt := 0#Config.cntW
  resyncCnt := 0#Config.cntW
  rx := []
  tx := []
  inflight := .idle
  enc := []
  encCap := Config.maxFrameLen
  txPort := .accepts
  results := []
  cfg := Config.reference
  sched := []
  fresh := 0

end Sys2Proof.Machine
end

