-- ==== Sys2Proof/Machine/Flags.lean ====
section
/-! DEFINITION. What is computed from the state and not stored: the status flags, the saturating count, the ingress
result, the status view and the informative pulses. -/

namespace Sys2Proof.Machine

/-! The derived flags of `10_state.md` R35. -/

/-- R_EMPTY. -/
def State.rEmpty (s : State) : Bool := decide (s.rch.queue.length = 0)

/-- R_FULL. -/
def State.rFull (s : State) : Bool := decide (s.rch.queue.length = Config.respDepth)

/-- E_EMPTY. -/
def State.eEmpty (s : State) : Bool := decide (s.ech.queue.length = 0)

/-- E_FULL. -/
def State.eFull (s : State) : Bool := decide (s.ech.queue.length = Config.evtDepth)

/-- HALTED. -/
def State.halted (s : State) : Bool := decide (s.phase = .halt)

/-- `sat_inc(c) = min(c + 1, 2^CNT_W - 1)` (`10_state.md` R36, `41_ingress.md` R162). -/
def satInc (c : Count) : Count := if c = BitVec.allOnes Config.cntW then c else c + 1#Config.cntW

/-! The ingress result and the status view. -/

/-- The ingress result, a function of ERR (`10_state.md` R29). -/
inductive IngressResult where
  | running
  | errPayloadLength
  | errIo (e : IoError)
  deriving DecidableEq, Repr

/-- What the spawner of the ingress task reads (`10_state.md` R29). -/
def State.ingressResult (s : State) : IngressResult :=
  match s.err with
  | .none => .running
  | .payloadLength => .errPayloadLength
  | .io e => .errIo e

/-- ST_PHASE (`10_state.md` R38). -/
def Phase.code : Phase → BitVec 3
  | .seek => 0#3
  | .cmd => 1#3
  | .len => 2#3
  | .payload => 3#3
  | .chk => 4#3
  | .halt => 7#3

/-- ST_ERR (`60_exceptions.md` R291); the transport error itself is not encoded. -/
def Err.code : Err → BitVec 2
  | .none => 0#2
  | .payloadLength => 1#2
  | .io _ => 2#2

/-- The status view: named read-only fields (`10_state.md` R38). -/
structure StatusView where
  stPhase : BitVec 3
  stErr : BitVec 2
  stREmpty : Bool
  stRFull : Bool
  stEEmpty : Bool
  stEFull : Bool
  stRWait : Bool
  stEWait : Bool
  stRCount : BitVec 2
  stECount : BitVec 5
  rdropCnt : Count
  edropCnt : Count
  chkerrCnt : Count
  unknownCnt : Count
  resyncCnt : Count
  deriving DecidableEq, Repr

/-- Reading the status view has no side effect (`20_memory.md` R69). -/
def State.status (s : State) : StatusView where
  stPhase := s.phase.code
  stErr := s.err.code
  stREmpty := s.rEmpty
  stRFull := s.rFull
  stEEmpty := s.eEmpty
  stEFull := s.eFull
  stRWait := s.rch.wait
  stEWait := s.ech.wait
  stRCount := BitVec.ofNat 2 s.rch.queue.length
  stECount := BitVec.ofNat 5 s.ech.queue.length
  rdropCnt := s.rch.dropCnt
  edropCnt := s.ech.dropCnt
  chkerrCnt := s.chkerrCnt
  unknownCnt := s.unknownCnt
  resyncCnt := s.resyncCnt

/-- The informative pulses of `60_exceptions.md` R294. No rule and no meaning of this model reads them. -/
structure Pulses where
  respWake : Bool
  evtWake : Bool
  respDrop : Bool
  evtDrop : Bool
  chkErr : Bool
  halted : Bool
  deriving DecidableEq, Repr

/-- The pulses of an ingress step that takes byte `b` in this state (R294): wakes and drops of an accepted frame, a
checksum error, and the level `halted`. -/
def State.pulses (s : State) (b : Byte) : Pulses :=
  let accepts := decide (s.phase = .chk) && decide (b = s.acc)
  let isRsp := match classify s.cfg s.cmd with | .response _ => true | _ => false
  let isEvt := match classify s.cfg s.cmd with | .event _ => true | _ => false
  { respWake := accepts && isRsp && s.rEmpty && s.rch.wait
    evtWake := accepts && isEvt && s.eEmpty && s.ech.wait
    respDrop := accepts && isRsp && s.rFull
    evtDrop := accepts && isEvt && s.eFull
    chkErr := decide (s.phase = .chk) && decide (b ≠ s.acc)
    halted := s.halted }

end Sys2Proof.Machine
end

