-- ==== Sys2Proof/Machine/Ops.lean ====
section
/-! DEFINITION. The named operations over memory, registers and streams; taking the fatal halt (the counterpart of an
exception entry) and RESTART (the counterpart of a return from it). -/

namespace Sys2Proof.Machine

/-! Byte memories (BUF and ENC): every access is one byte (`20_memory.md` R69). -/

/-- The canonical form: addresses strictly rising. An unlisted address holds no value, so any listed byte is allowed. -/
abbrev Memory.wf (m : Memory) : Prop := (m.map Prod.fst).Pairwise (· < ·)

/-- Every listed address is below `n`. -/
abbrev Memory.within (m : Memory) (n : Nat) : Prop := ∀ c ∈ m, c.1 < n

/-- `MemRead(space, a, 1)` (`00_scope.md` R14); no value where nothing was written (log 6). -/
def Memory.read : Memory → Nat → Option Byte
  | [], _ => none
  | (x, y) :: m, a => if a = x then some y else Memory.read m a

/-- `MemWrite(space, a, 1, b)` (`00_scope.md` R14), keeping the canonical form. -/
def Memory.write : Memory → Nat → Byte → Memory
  | [], a, b => [(a, b)]
  | (x, y) :: m, a, b =>
    if a < x then (a, b) :: (x, y) :: m
    else if a = x then (a, b) :: m
    else (x, y) :: Memory.write m a b

/-- The `n` bytes from address `a` up, if every one of them holds a value. -/
def Memory.readBlock (m : Memory) : Nat → Nat → Option (List Byte)
  | _, 0 => some []
  | a, n + 1 =>
    match m.read a, Memory.readBlock m (a + 1) n with
    | some b, some bs => some (b :: bs)
    | _, _ => none

/-- The bytes written one after the other from address `a` up. -/
def Memory.writeBlock (m : Memory) : Nat → List Byte → Memory
  | _, [] => m
  | a, b :: bs => Memory.writeBlock (m.write a b) (a + 1) bs

/-! The ingress registers: the transitions that complete no instruction. -/

/-- Seek, start found (`41_ingress.md` R151). -/
def State.startCandidate (s : State) : State :=
  { s with acc := Config.startByte, phase := .cmd }

/-- Command id taken (`41_ingress.md` R153). -/
def State.takeCommand (b : Byte) (s : State) : State :=
  { s with cmd := b, acc := s.acc ^^^ b, phase := .len }

/-- Legal LENGTH taken (`41_ingress.md` R154). -/
def State.takeLength (b : Byte) (s : State) : State :=
  { s with len := b, acc := s.acc ^^^ b, idx := 0#8, phase := if b = 0#8 then .chk else .payload }

/-- Payload byte stored (`41_ingress.md` R155); BUF has the addresses 0 to 223 (`20_memory.md` R63). -/
def State.storePayload (b : Byte) (s : State) : Host.Outcome State Fault Refusal :=
  if s.idx.toNat < Config.maxPayloadLen then
    .next { s with
      buf := s.buf.write s.idx.toNat b
      acc := s.acc ^^^ b
      idx := s.idx + 1#8
      phase := if s.idx + 1#8 = s.len then .chk else .payload }
  else .fault .bufRange

/-- Checksum mismatch: the candidate is discarded (`41_ingress.md` R157). -/
def State.discardCandidate (s : State) : State :=
  { s with chkerrCnt := satInc s.chkerrCnt, phase := .seek }

/-! The fatal halt and its end. -/

/-- Entry of the halt (`60_exceptions.md` R297): ERR takes the cause, PHASE becomes HALT, everything else is kept. The one
operation of both fatal conditions (`41_ingress.md` R158, R159). -/
def State.halt (cause : Err) (s : State) : State :=
  { s with err := cause, phase := .halt }

/-- RESTART (`60_exceptions.md` R307): no effect outside HALT. In HALT, CMD, LEN and ACC become free values and BUF holds no
value any more (log 7); the channels, the waiter flags, the counters and RX keep theirs. -/
def State.restart (s : State) : State :=
  if s.phase = .halt then
    { s with
      err := .none
      phase := .seek
      idx := 0#8
      cmd := Config.freeByte s.fresh
      len := Config.freeByte (s.fresh + 1)
      acc := Config.freeByte (s.fresh + 2)
      buf := []
      fresh := s.fresh + 3 }
  else s

/-! Streams and results. -/

/-- `TxWrite(w)` (`20_memory.md` R62): all bytes in index order, or the transport's error after a number of bytes that the
host does not learn (U12). Answers the error, if any. -/
def State.txWrite (w : List Byte) (s : State) : Option IoError × State :=
  match s.txPort with
  | .accepts => (none, { s with tx := s.tx ++ w })
  | .fails sent e => (some e, { s with tx := s.tx ++ w.take sent })

/-- A host operation returns a result to its caller (`44_host_controller.md` R278). -/
def State.answer (r : HostResult) (s : State) : State :=
  { s with results := s.results ++ [r] }

/-- An instruction of the ingress machine has its effect unless the machine is halted: in HALT it "pushes nothing and
changes nothing" (`41_ingress.md` R160). -/
def whenRunning (s t : State) : Host.Outcome State Fault Refusal :=
  .next (if s.phase = .halt then s else t)

end Sys2Proof.Machine
end

