-- ==== Sys2Proof/Machine/Channels.lean ====
section
/-! DEFINITION. The channel operations push, pop, wait_and_pop, wake and cancel (`43_channels.md`), once for both
channels, and the routing mux (`42_classify_route.md`). -/

namespace Sys2Proof.Machine

/-- The answer of a push (`00_scope.md` R15). -/
inductive PushResult where
  | success | full
  deriving DecidableEq, Repr

/-- The consumer is inside `wait_and_pop`: suspended, or woken and not resumed yet (`43_channels.md` R225 to R227). -/
def Channel.busy {K : Type} (c : Channel K) : Bool := c.wait || c.woken

/-- The wake of the one suspended consumer (`43_channels.md` R226). -/
def Channel.wake {K : Type} (c : Channel K) : Channel K := { c with wait := false, woken := true }

/-- `push(Q, f)` with capacity `cap` (`43_channels.md` R221, R222, R226, R234). -/
def Channel.push {K : Type} (cap : Nat) (f : Frame K) (c : Channel K) : PushResult × Channel K :=
  if c.queue.length < cap then
    let c' := { c with queue := c.queue ++ [f] }
    (.success, if c.queue.length = 0 ∧ c.wait = true then c'.wake else c')
  else (.full, { c with dropCnt := satInc c.dropCnt })

/-- `pop(Q)` (`43_channels.md` R223): the head is removed and returned; on an empty queue nothing changes. -/
def Channel.pop {K : Type} (c : Channel K) : Option (Frame K) × Channel K :=
  match c.queue with
  | [] => (none, c)
  | f :: q => (some f, { c with queue := q, out := c.out ++ [f] })

/-- `wait_and_pop(Q)`, invoked or resumed (`43_channels.md` R224, R225, R227): with an item it is `pop`; on an empty queue the
waiter is registered in the same step and the consumer is suspended. -/
def Channel.waitAndPop {K : Type} (c : Channel K) : Option (Frame K) × Channel K :=
  match c.queue with
  | [] => (none, { c with wait := true, woken := false })
  | f :: q => (some f, { c with queue := q, woken := false, out := c.out ++ [f] })

/-- Cancelling a registered wait (`43_channels.md` R230). -/
def Channel.cancelWait {K : Type} (c : Channel K) : Channel K := { c with wait := false }

/-- A push on RQ (capacity 2); the ingress machine ignores the answer (`43_channels.md` R222). -/
def State.pushResponse (f : Frame Response) (s : State) : State :=
  { s with rch := (s.rch.push Config.respDepth f).2 }

/-- A push on EQ (capacity 16). -/
def State.pushEvent (f : Frame Event) (s : State) : State :=
  { s with ech := (s.ech.push Config.evtDepth f).2 }

/-! Routing an accepted frame (`42_classify_route.md` R204, R205), then PHASE to SEEK (`41_ingress.md` R156). -/

/-- The RQ output of the mux. -/
def routeResponse (k : Response) (data : List Byte) (s : State) : Host.Outcome State Fault Refusal :=
  whenRunning s { s.pushResponse { command := k, data := data } with phase := .seek }

/-- The EQ output of the mux. -/
def routeEvent (k : Event) (data : List Byte) (s : State) : Host.Outcome State Fault Refusal :=
  whenRunning s { s.pushEvent { command := k, data := data } with phase := .seek }

/-- The discard path of the mux (`42_classify_route.md` R207). -/
def routeUnknown (s : State) : Host.Outcome State Fault Refusal :=
  whenRunning s { s with unknownCnt := satInc s.unknownCnt, phase := .seek }

end Sys2Proof.Machine
end

