-- ==== Sys2Proof/Machine/Operands.lean ====
section
/-! DEFINITION. The operand forms: the payload a Request is encoded with, the payload layouts of the ten methods, the
status byte of a Response and its reading by each method. -/

namespace Sys2Proof.Machine

/-! Encoding into the caller's buffer. -/

/-- `encode(buffer, request_kind, payload) -> length` (`40_encode.md` R122 to R124; the payload is checked first, D15). Bytes at
and beyond `4 + n` keep the caller's values (`20_memory.md` R64). -/
def State.encodeInto (k : Request) (payload : List Byte) (s : State) : Except EncodeFault (Nat × State) :=
  if Config.maxPayloadLen < payload.length then .error .payloadTooLong
  else if s.encCap < Config.frameOverhead + payload.length then .error .bufferTooShort
  else
    .ok (Config.frameOverhead + payload.length,
      { s with enc := s.enc.writeBlock 0 (frame (s.cfg.req k) payload) })

/-- A Request frame is encoded and written to TX as one run (`40_encode.md` R122, R140; one step, `20_memory.md` R72). A write
error is returned as `Error::Io` and changes nothing of the block (`44_host_controller.md` R254). -/
def transmit (k : Request) (payload : List Byte) (s : State) : Host.Outcome State Fault Refusal :=
  match s.encodeInto k payload with
  | .error v => .fault (.encodeContract v)
  | .ok (_, s1) =>
    match s1.txWrite (frame (s.cfg.req k) payload) with
    | (none, s2) => .next s2
    | (some e, s2) => .next (s2.answer (.ioError e))

/-! The methods of the command API. -/

/-- The method a call invokes, with the argument byte of its success test (`44_host_controller.md` R251). -/
def Call.command : Call → Command
  | .send _ => .send
  | .reset => .reset
  | .factoryReset => .factoryReset
  | .standby => .standby
  | .rssi => .rssi
  | .txPower p => .txPower p
  | .channel ch => .channel ch
  | .destinationNet _ => .destinationNet
  | .destinationAddress _ => .destinationAddress
  | .mode _ => .mode

/-- The Request a call encodes (`44_host_controller.md` R267 to R276). -/
def Call.request : Call → Request
  | .send _ => .sendData
  | .reset => .reset
  | .factoryReset => .factoryReset
  | .standby => .standby
  | .rssi => .rssi
  | .txPower _ => .transmitPower
  | .channel _ => .setChannel
  | .destinationNet _ => .setDestinationNetworkId
  | .destinationAddress _ => .setDestinationAddress
  | .mode _ => .setMode

/-- The payload a call encodes (`40_encode.md` R126 to R139; layouts by decision D30 of the spec). -/
def Call.payload : Call → List Byte
  | .send bytes => bytes
  | .reset | .factoryReset | .standby | .rssi => []
  | .txPower p => [p]
  | .channel ch => [ch]
  | .destinationNet id => [id]
  | .destinationAddress a => [a]
  | .mode m => [m]

/-- The argument bound of a call: `send` takes at most 220 bytes (`44_host_controller.md` R258). -/
def Call.fits : Call → Bool
  | .send bytes => decide (bytes.length ≤ Config.sendMax)
  | _ => true

/-- The Response kind a command expects (`44_host_controller.md` R267 to R276). -/
def Command.expected : Command → Response
  | .send => .sendData
  | .reset => .reset
  | .factoryReset => .factoryReset
  | .standby => .standby
  | .rssi => .rssi
  | .txPower _ => .transmitPower
  | .channel _ => .setChannel
  | .destinationNet => .setDestinationNetworkId
  | .destinationAddress => .setDestinationAddress
  | .mode => .setMode

/-- `SendDataError::from(s)` (`44_host_controller.md` R261, R262). -/
def sendDataError (cfg : Config) (s : Byte) : SendDataError :=
  if s = cfg.sdeCodes.ackTimeout then .ackTimeout
  else if s = cfg.sdeCodes.invalidChannel then .invalidChannel
  else if s = cfg.sdeCodes.channelBusy then .channelBusy
  else if s = cfg.sdeCodes.moduleBusy then .moduleBusy
  else if s = cfg.sdeCodes.payloadInvalid then .payloadInvalid
  else .other s

/-- `Ok` or `Error::Status(())`. -/
def okWhen (success : Bool) : HostResult := if success then .ok else .status .unit

/-- The result a command gives for the status byte `s` (the table of `44_host_controller.md` R256). -/
def Command.interpret (cfg : Config) (s : Byte) : Command → HostResult
  | .send => if s = 0#8 then .ok else .status (.sendData (sendDataError cfg s))
  | .reset | .factoryReset | .standby | .destinationNet | .destinationAddress | .mode => okWhen (decide (s = 0#8))
  | .txPower p => okWhen (decide (s = p))
  | .channel ch => okWhen (decide (s = ch))
  | .rssi => .byte s

end Sys2Proof.Machine
end

