-- ==== Sys2Proof/Machine/ByteClasses.lean ====
section
/-! DEFINITION. The meanings of the three rows that are no variant: the resynchronisation byte, the illegal LENGTH and the
unknown command id. -/

namespace Sys2Proof.Machine

/-- `RX.RESYNC_BYTE` (`41_ingress.md` R152): the byte is discarded and counted; PHASE stays. The byte itself is not kept
(`60_exceptions.md` R292). -/
def execRxResyncByte (_b : Byte) (s : State) : Host.Outcome State Fault Refusal :=
  whenRunning s { s with resyncCnt := satInc s.resyncCnt }

/-- `RX.ILLEGAL_LENGTH` (`41_ingress.md` R158): the machine halts with PayloadLength. The offending byte is not kept and CMD still
holds the candidate's command id (`60_exceptions.md` R292). -/
def execRxIllegalLength (_c _l : Byte) (s : State) : Host.Outcome State Fault Refusal :=
  whenRunning s (s.halt .payloadLength)

/-- `RX.UNKNOWN_ID` (`42_classify_route.md` R207): the frame is discarded and counted, PHASE returns to SEEK. -/
def execRxUnknownId (_c : Byte) (_data : List Byte) (s : State) : Host.Outcome State Fault Refusal :=
  routeUnknown s

end Sys2Proof.Machine
end

