-- ==== Sys2Proof/Machine/Events.lean ====
section
/-! DEFINITION. The meanings of the 5 Event rows: the accepted frame is pushed on EQ and PHASE returns to SEEK
(`42_classify_route.md`, section 3). The block does not read the data. -/

namespace Sys2Proof.Machine

/-- `Event.DataRepeat` (`42_classify_route.md` R199). -/
def execEvtDataRepeat (data : List Byte) (s : State) : Host.Outcome State Fault Refusal :=
  routeEvent .dataRepeat data s

/-- `Event.DataReceived` (`42_classify_route.md` R200). -/
def execEvtDataReceived (data : List Byte) (s : State) : Host.Outcome State Fault Refusal :=
  routeEvent .dataReceived data s

/-- `Event.Reset` (`42_classify_route.md` R201): it reports a reset of the radio module, does not reset TFC and does not clear the channels. -/
def execEvtReset (data : List Byte) (s : State) : Host.Outcome State Fault Refusal :=
  routeEvent .reset data s

/-- `Event.Wakeup` (`42_classify_route.md` R202). -/
def execEvtWakeup (data : List Byte) (s : State) : Host.Outcome State Fault Refusal :=
  routeEvent .wakeup data s

/-- `Event.PacketTransmit` (`42_classify_route.md` R203). -/
def execEvtPacketTransmit (data : List Byte) (s : State) : Host.Outcome State Fault Refusal :=
  routeEvent .packetTransmit data s

end Sys2Proof.Machine
end

