-- ==== Sys2Proof/Machine/Requests.lean ====
section
/-! DEFINITION. The meanings of the 14 Request rows: encode the frame into ENC and write it to TX (`40_encode.md`, section 3). The codec
does not interpret the payload, and a Request addresses the radio module: no register of the ingress machine and no
channel changes. -/

namespace Sys2Proof.Machine

/-- `Request.SendData` (`40_encode.md` R126): the codec takes up to 224 bytes; the bound of 220 is the method's. -/
def execReqSendData (payload : List Byte) (s : State) : Host.Outcome State Fault Refusal :=
  transmit .sendData payload s

/-- `Request.SendDataEx` (`40_encode.md` R127). -/
def execReqSendDataEx (payload : List Byte) (s : State) : Host.Outcome State Fault Refusal :=
  transmit .sendDataEx payload s

/-- `Request.SetMode` (`40_encode.md` R128). -/
def execReqSetMode (payload : List Byte) (s : State) : Host.Outcome State Fault Refusal :=
  transmit .setMode payload s

/-- `Request.Reset` (`40_encode.md` R129): it asks the radio module to reset and does not reset TFC. -/
def execReqReset (payload : List Byte) (s : State) : Host.Outcome State Fault Refusal :=
  transmit .reset payload s

/-- `Request.SetChannel` (`40_encode.md` R130). -/
def execReqSetChannel (payload : List Byte) (s : State) : Host.Outcome State Fault Refusal :=
  transmit .setChannel payload s

/-- `Request.SetDestinationNetworkId` (`40_encode.md` R131). -/
def execReqSetDestinationNetworkId (payload : List Byte) (s : State) : Host.Outcome State Fault Refusal :=
  transmit .setDestinationNetworkId payload s

/-- `Request.SetDestinationAddress` (`40_encode.md` R132). -/
def execReqSetDestinationAddress (payload : List Byte) (s : State) : Host.Outcome State Fault Refusal :=
  transmit .setDestinationAddress payload s

/-- `Request.SetUserSetting` (`40_encode.md` R133). -/
def execReqSetUserSetting (payload : List Byte) (s : State) : Host.Outcome State Fault Refusal :=
  transmit .setUserSetting payload s

/-- `Request.GetUserSetting` (`40_encode.md` R134). -/
def execReqGetUserSetting (payload : List Byte) (s : State) : Host.Outcome State Fault Refusal :=
  transmit .getUserSetting payload s

/-- `Request.Rssi` (`40_encode.md` R135). -/
def execReqRssi (payload : List Byte) (s : State) : Host.Outcome State Fault Refusal :=
  transmit .rssi payload s

/-- `Request.Shutdown` (`40_encode.md` R136): it addresses the radio module. -/
def execReqShutdown (payload : List Byte) (s : State) : Host.Outcome State Fault Refusal :=
  transmit .shutdown payload s

/-- `Request.Standby` (`40_encode.md` R137): it addresses the radio module. -/
def execReqStandby (payload : List Byte) (s : State) : Host.Outcome State Fault Refusal :=
  transmit .standby payload s

/-- `Request.TransmitPower` (`40_encode.md` R138). -/
def execReqTransmitPower (payload : List Byte) (s : State) : Host.Outcome State Fault Refusal :=
  transmit .transmitPower payload s

/-- `Request.FactoryReset` (`40_encode.md` R139). -/
def execReqFactoryReset (payload : List Byte) (s : State) : Host.Outcome State Fault Refusal :=
  transmit .factoryReset payload s

end Sys2Proof.Machine
end

