-- ==== Sys2Proof/Machine/Responses.lean ====
section
/-! DEFINITION. The meanings of the 13 Response rows: the accepted frame is pushed on RQ and PHASE returns to SEEK
(`42_classify_route.md`, section 2). The block does not read the data. -/

namespace Sys2Proof.Machine

/-- `Response.SendData` (`42_classify_route.md` R185). -/
def execRspSendData (data : List Byte) (s : State) : Host.Outcome State Fault Refusal :=
  routeResponse .sendData data s

/-- `Response.SetMode` (`42_classify_route.md` R186). -/
def execRspSetMode (data : List Byte) (s : State) : Host.Outcome State Fault Refusal :=
  routeResponse .setMode data s

/-- `Response.Reset` (`42_classify_route.md` R187). -/
def execRspReset (data : List Byte) (s : State) : Host.Outcome State Fault Refusal :=
  routeResponse .reset data s

/-- `Response.SetChannel` (`42_classify_route.md` R188). -/
def execRspSetChannel (data : List Byte) (s : State) : Host.Outcome State Fault Refusal :=
  routeResponse .setChannel data s

/-- `Response.SetDestinationNetworkId` (`42_classify_route.md` R189). -/
def execRspSetDestinationNetworkId (data : List Byte) (s : State) : Host.Outcome State Fault Refusal :=
  routeResponse .setDestinationNetworkId data s

/-- `Response.SetDestinationAddress` (`42_classify_route.md` R190). -/
def execRspSetDestinationAddress (data : List Byte) (s : State) : Host.Outcome State Fault Refusal :=
  routeResponse .setDestinationAddress data s

/-- `Response.SetUserSetting` (`42_classify_route.md` R191). -/
def execRspSetUserSetting (data : List Byte) (s : State) : Host.Outcome State Fault Refusal :=
  routeResponse .setUserSetting data s

/-- `Response.GetUserSetting` (`42_classify_route.md` R192). -/
def execRspGetUserSetting (data : List Byte) (s : State) : Host.Outcome State Fault Refusal :=
  routeResponse .getUserSetting data s

/-- `Response.Rssi` (`42_classify_route.md` R193): the block neither tests nor converts the byte. -/
def execRspRssi (data : List Byte) (s : State) : Host.Outcome State Fault Refusal :=
  routeResponse .rssi data s

/-- `Response.Shutdown` (`42_classify_route.md` R194). -/
def execRspShutdown (data : List Byte) (s : State) : Host.Outcome State Fault Refusal :=
  routeResponse .shutdown data s

/-- `Response.Standby` (`42_classify_route.md` R195). -/
def execRspStandby (data : List Byte) (s : State) : Host.Outcome State Fault Refusal :=
  routeResponse .standby data s

/-- `Response.TransmitPower` (`42_classify_route.md` R196). -/
def execRspTransmitPower (data : List Byte) (s : State) : Host.Outcome State Fault Refusal :=
  routeResponse .transmitPower data s

/-- `Response.FactoryReset` (`42_classify_route.md` R197). -/
def execRspFactoryReset (data : List Byte) (s : State) : Host.Outcome State Fault Refusal :=
  routeResponse .factoryReset data s

end Sys2Proof.Machine
end

