-- ==== Sys2Proof/Machine/Dispatch.lean ====
section
/-! DEFINITION. One arm for each instruction, each one call of its meaning. -/

namespace Sys2Proof.Machine

-- The instruction's meaning on a state.
def exec (i : Instr) (s : State) : Host.Outcome State Fault Refusal :=
  match i with
  | .reqSendData payload => Sys2Proof.Machine.execReqSendData payload s
  | .reqSendDataEx payload => Sys2Proof.Machine.execReqSendDataEx payload s
  | .reqSetMode payload => Sys2Proof.Machine.execReqSetMode payload s
  | .reqReset payload => Sys2Proof.Machine.execReqReset payload s
  | .reqSetChannel payload => Sys2Proof.Machine.execReqSetChannel payload s
  | .reqSetDestinationNetworkId payload => Sys2Proof.Machine.execReqSetDestinationNetworkId payload s
  | .reqSetDestinationAddress payload => Sys2Proof.Machine.execReqSetDestinationAddress payload s
  | .reqSetUserSetting payload => Sys2Proof.Machine.execReqSetUserSetting payload s
  | .reqGetUserSetting payload => Sys2Proof.Machine.execReqGetUserSetting payload s
  | .reqRssi payload => Sys2Proof.Machine.execReqRssi payload s
  | .reqShutdown payload => Sys2Proof.Machine.execReqShutdown payload s
  | .reqStandby payload => Sys2Proof.Machine.execReqStandby payload s
  | .reqTransmitPower payload => Sys2Proof.Machine.execReqTransmitPower payload s
  | .reqFactoryReset payload => Sys2Proof.Machine.execReqFactoryReset payload s
  | .rspSendData data => Sys2Proof.Machine.execRspSendData data s
  | .rspSetMode data => Sys2Proof.Machine.execRspSetMode data s
  | .rspReset data => Sys2Proof.Machine.execRspReset data s
  | .rspSetChannel data => Sys2Proof.Machine.execRspSetChannel data s
  | .rspSetDestinationNetworkId data => Sys2Proof.Machine.execRspSetDestinationNetworkId data s
  | .rspSetDestinationAddress data => Sys2Proof.Machine.execRspSetDestinationAddress data s
  | .rspSetUserSetting data => Sys2Proof.Machine.execRspSetUserSetting data s
  | .rspGetUserSetting data => Sys2Proof.Machine.execRspGetUserSetting data s
  | .rspRssi data => Sys2Proof.Machine.execRspRssi data s
  | .rspShutdown data => Sys2Proof.Machine.execRspShutdown data s
  | .rspStandby data => Sys2Proof.Machine.execRspStandby data s
  | .rspTransmitPower data => Sys2Proof.Machine.execRspTransmitPower data s
  | .rspFactoryReset data => Sys2Proof.Machine.execRspFactoryReset data s
  | .evtDataRepeat data => Sys2Proof.Machine.execEvtDataRepeat data s
  | .evtDataReceived data => Sys2Proof.Machine.execEvtDataReceived data s
  | .evtReset data => Sys2Proof.Machine.execEvtReset data s
  | .evtWakeup data => Sys2Proof.Machine.execEvtWakeup data s
  | .evtPacketTransmit data => Sys2Proof.Machine.execEvtPacketTransmit data s
  | .rxResyncByte b => Sys2Proof.Machine.execRxResyncByte b s
  | .rxIllegalLength c l => Sys2Proof.Machine.execRxIllegalLength c l s
  | .rxUnknownId c data => Sys2Proof.Machine.execRxUnknownId c data s

end Sys2Proof.Machine
end

