-- ==== Sys2Proof/Machine/Ingress.lean ====
section
/-! DEFINITION. The ingress machine's step: the "instruction fetch" of this block (`20_memory.md` R78). It takes one symbol;
the symbols that complete an instruction run it, the others move the fetch on (`41_ingress.md` R162). -/

namespace Sys2Proof.Machine

/-- The bytes of the candidate taken so far; none where BUF lacks one of them (`00_scope.md` R19, `10_state.md` R30). -/
def State.candidate (s : State) : Option (List Byte) :=
  match s.phase with
  | .seek | .halt => some []
  | .cmd => some [Config.startByte]
  | .len => some [Config.startByte, s.cmd]
  | .payload | .chk =>
    (s.buf.readBlock 0 s.idx.toNat).map (fun d => Config.startByte :: s.cmd :: s.len :: d)

/-- The checksum byte has matched: `data <- BUF[0..LEN)`, classify, route (`41_ingress.md` R156). -/
def acceptCandidate (s : State) : Host.Outcome State Fault Refusal :=
  match s.buf.readBlock 0 s.len.toNat with
  | none => .fault .bufUnwritten
  | some data => exec (acceptedInstr s.cfg s.cmd data) s

/-- `ingress_step(sym)`, total on every phase and symbol (`41_ingress.md` R162). -/
def ingressStep (sym : Symbol) (s : State) : Host.Outcome State Fault Refusal :=
  match sym with
  | .ioErr e => .next (s.halt (.io e))
  | .byte b =>
    match s.phase with
    | .seek => if b = Config.startByte then .next s.startCandidate else exec (.rxResyncByte b) s
    | .cmd => .next (s.takeCommand b)
    | .len =>
      if Config.maxPayloadLen < b.toNat then exec (.rxIllegalLength s.cmd b) s else .next (s.takeLength b)
    | .payload => s.storePayload b
    | .chk => if b = s.acc then acceptCandidate s else .next s.discardCandidate
    | .halt => .next s

/-- The ingress agent's turn: enabled exactly when PHASE is not HALT and RX has a symbol (`41_ingress.md` R150, R160, R161);
otherwise nothing happens. `RxNext()` removes the symbol (`20_memory.md` R60). -/
def ingressTurn (s : State) : Host.Outcome State Fault Refusal :=
  if s.phase = .halt then .next s
  else
    match s.rx with
    | [] => .next s
    | sym :: rest => ingressStep sym { s with rx := rest }

end Sys2Proof.Machine
end

