-- ==== Sys2Proof/Machine/Agents.lean ====
section
/-! DEFINITION. The moves of the other agents: the Host's command transaction, timeout and pops, the EventCaller, the
environment, RESTART; and which move a scheduled turn is. -/

namespace Sys2Proof.Machine

/-! The Host (`44_host_controller.md`). -/

/-- Writing a Request frame without a method (R277): a Request may be written only while none is in flight (R253). DESIGN CHOICE,
log 24: the move takes all 14 kinds, and it leaves INFLIGHT Idle, so another Request or a command may follow before its
Response is dequeued. -/
def hostRequest (k : Request) (payload : List Byte) (s : State) : Host.Outcome State Fault Refusal :=
  match s.inflight with
  | .awaiting _ => .refused .commandInFlight
  | .idle => exec (.ofRequest k payload) s

/-- Step 1 of a command (R252): encode, write, INFLIGHT. `send` over 220 bytes is refused before encode (R258); a write error
ends the command and leaves INFLIGHT Idle (R254); a command while one is in flight has no meaning (R253). -/
def hostCall (c : Call) (s : State) : Host.Outcome State Fault Refusal :=
  match s.inflight with
  | .awaiting _ => .refused .commandInFlight
  | .idle =>
    if c.fits then
      match exec (.ofRequest c.request c.payload) s with
      | .next t =>
        match s.txPort with
        | .accepts => .next { t with inflight := .awaiting c.command }
        | .fails _ _ => .next t
      | stop => stop
    else .fault (.encodeContract .payloadTooLong)

/-- Step 3 of a command, on the dequeued Response `f` (R256, R257, R259). -/
def hostInterpret (c : Command) (f : Frame Response) (s : State) : Host.Outcome State Fault Refusal :=
  if s.cfg.respMismatch = .skipUntilMatch ∧ f.command ≠ c.expected then .next s
  else
    match f.data with
    | [] => .refused .emptyStatus
    | status :: _ => .next { s.answer (c.interpret s.cfg status) with inflight := .idle }

/-- The Host's next step in the transaction: `wait_and_pop(RQ)`, then step 3 on what it dequeued (R252, R255). With no command
in flight, or suspended in its wait, the Host has no such step (`43_channels.md` R225, R228). -/
def hostTurn (s : State) : Host.Outcome State Fault Refusal :=
  match s.inflight with
  | .idle => .next s
  | .awaiting c =>
    if s.rch.wait then .next s
    else
      match s.rch.waitAndPop with
      | (none, ch) => .next { s with rch := ch }
      | (some f, ch) => hostInterpret c f { s with rch := ch }

/-- Expiry of the bounded wait (R265, U15): enabled while the Host is suspended with RQ empty and RESP_TIMEOUT is not
"never". -/
def hostTimeout (s : State) : Host.Outcome State Fault Refusal :=
  match s.inflight with
  | .idle => .next s
  | .awaiting _ =>
    if s.cfg.respTimeout = .bounded ∧ s.rch.wait = true ∧ s.rch.queue = [] then
      .next { s.answer .timeout with rch := s.rch.cancelWait, inflight := .idle }
    else .next s

/-- `pop(RQ)` by its consumer (`43_channels.md` R223); the consumer has no such step while it is inside `wait_and_pop`. -/
def hostPop (s : State) : Host.Outcome State Fault Refusal :=
  if s.rch.busy then .refused .consumerBusy else .next { s with rch := s.rch.pop.2 }

/-! The EventCaller. -/

/-- `next_event()`: `wait_and_pop(EQ)` without a timeout (R263). Two waits on one channel have no meaning (U8). -/
def nextEvent (s : State) : Host.Outcome State Fault Refusal :=
  if s.ech.busy then .refused .consumerBusy else .next { s with ech := s.ech.waitAndPop.2 }

/-- The EventCaller's step after a wake (`43_channels.md` R227); it has none while suspended or outside a wait. -/
def eventTurn (s : State) : Host.Outcome State Fault Refusal :=
  if s.ech.woken then .next { s with ech := s.ech.waitAndPop.2 } else .next s

/-- `pop(EQ)` by its consumer (`43_channels.md` R223). -/
def eventPop (s : State) : Host.Outcome State Fault Refusal :=
  if s.ech.busy then .refused .consumerBusy else .next { s with ech := s.ech.pop.2 }

/-! The environment. -/

/-- The caller supplies an encode buffer with these contents (`20_memory.md` R64). -/
def supplyBuffer (bytes : List Byte) (s : State) : State :=
  { s with enc := Memory.writeBlock [] 0 bytes, encCap := bytes.length }

/-- One atomic move (`00_scope.md` R10, `20_memory.md` R72). -/
def runMove (m : Move) (s : State) : Host.Outcome State Fault Refusal :=
  match m with
  | .ingress => ingressTurn s
  | .device sym => .next { s with rx := s.rx ++ [sym] }
  | .transport a => .next { s with txPort := a }
  | .buffer bytes => .next (supplyBuffer bytes s)
  | .request k payload => hostRequest k payload s
  | .call c => hostCall c s
  | .host => hostTurn s
  | .timeout => hostTimeout s
  | .popResponse => hostPop s
  | .nextEvent => nextEvent s
  | .eventCaller => eventTurn s
  | .popEvent => eventPop s
  | .restart => .next s.restart

/-- The next scheduled move, or the ingress agent's turn when the schedule names none (log 8). -/
def scheduledMove (s : State) : Host.Outcome State Fault Refusal :=
  match s.sched with
  | [] => ingressTurn s
  | m :: ms => runMove m { s with sched := ms }

/-! Presenting an instruction to the next step. -/

/-- The state in which the very next step fetches and runs the instruction: a Request stands at the head of the schedule; a
received unit has been taken but for its last byte, which stands at the head of RX (log 9). -/
def presentInstr (i : Instr) (s : State) : State :=
  let frameHeld (code : Byte) (data : List Byte) : State :=
    { s with
      phase := .chk
      err := .none
      cmd := code
      len := BitVec.ofNat 8 data.length
      idx := BitVec.ofNat 8 data.length
      acc := checksum (frameBody code data)
      buf := s.buf.writeBlock 0 data
      rx := .byte (checksum (frameBody code data)) :: s.rx
      sched := .ingress :: s.sched }
  match i.form with
  | .request k p =>
    { s with inflight := .idle, encCap := max s.encCap Config.maxFrameLen, sched := .request k p :: s.sched }
  | .response k d => frameHeld (s.cfg.rsp k) d
  | .event k d => frameHeld ((s.cfg.evt k).getD 0#8) d
  | .unknownId c d => frameHeld c d
  | .resync b =>
    { s with phase := .seek, err := .none, rx := .byte b :: s.rx, sched := .ingress :: s.sched }
  | .illegalLength c l =>
    { s with
      phase := .len
      err := .none
      cmd := c
      acc := Config.startByte ^^^ c
      rx := .byte l :: s.rx
      sched := .ingress :: s.sched }

/-- Bytes that the decoder refuses are left at the head of RX, at a frame boundary. -/
def presentBytes (bytes : List Byte) (s : State) : State :=
  { s with phase := .seek, err := .none, rx := bytes.map .byte ++ s.rx, sched := .ingress :: s.sched }

/-- An opcode-table word presented to the next step. -/
def presentWord (nbits w : Nat) (s : State) : State :=
  match decodeWordWith s.cfg nbits w with
  | some i => presentInstr i s
  | none => presentBytes (wordBytes (nbits / 8) w) s

end Sys2Proof.Machine
end

