-- ==== Sys2Proof/Machine/Step.lean ====
section
/-! DEFINITION. One step of the machine: one atomic move of one agent. -/

namespace Sys2Proof.Machine

/-- One step (`20_memory.md` R72). -/
def step (s : State) : Host.Outcome State Fault Refusal := scheduledMove s

/-- `s` with the instruction of an opcode-table word where `step` fetches its next instruction (log 9). -/
def State.withFetchWord (s : State) (nbits w : Nat) : State := presentWord nbits w s

end Sys2Proof.Machine
end

