-- ==== Sys2Proof/Safety.lean ====
section
/-! DEFINITION. What a well-formed state is, in the terms the claims use: the invariants of the ingress registers
(`10_state.md` R30), of the channels (`43_channels.md` R231), of the memories and of the code tables. -/

namespace Sys2Proof.Machine

/-- `10_state.md` R30 (i): the machine is in HALT exactly when ERR holds a cause (also R28). -/
abbrev State.HaltInv (s : State) : Prop := s.phase = .halt ↔ s.err ≠ .none

/-- `10_state.md` R30 (ii) to (iv) and R25: the bounds of LEN and IDX in the phases that use them. -/
abbrev State.LenInv (s : State) : Prop :=
  (s.phase = .payload → s.len.toNat ≤ Config.maxPayloadLen ∧ s.idx.toNat < s.len.toNat) ∧
  (s.phase = .chk → s.len.toNat ≤ Config.maxPayloadLen ∧ s.idx = s.len)

/-- `10_state.md` R30 (v), R26, R27: while a candidate is held, every payload byte taken so far is in BUF and ACC is the
exclusive-or of all bytes of the candidate. -/
abbrev State.AccInv (s : State) : Prop :=
  s.phase ≠ .seek ∧ s.phase ≠ .halt → s.candidate.map checksum = some s.acc

/-- `43_channels.md` R231 for one channel, with the frame bound of `00_scope.md` R8 and what a wake means (R227): the capacity,
a waiter only on an empty queue, a woken consumer only on a non-empty one. -/
abbrev Channel.Inv {K : Type} (cap : Nat) (c : Channel K) : Prop :=
  c.queue.length ≤ cap ∧
  (∀ f ∈ c.queue, f.data.length ≤ Config.maxPayloadLen) ∧
  (c.wait = true → c.queue = []) ∧
  (c.woken = true → c.queue ≠ [] ∧ c.wait = false)

/-- Both channels. -/
abbrev State.ChannelInv (s : State) : Prop :=
  s.rch.Inv Config.respDepth ∧ s.ech.Inv Config.evtDepth

/-- The Host is inside a wait only while a command is in flight (`44_host_controller.md` R252). -/
abbrev State.WaitInv (s : State) : Prop := s.rch.busy = true → s.inflight ≠ .idle

/-- Both byte memories are canonical and stay inside their address ranges (`20_memory.md` R63, R64). -/
abbrev State.MemInv (s : State) : Prop :=
  s.buf.wf ∧ s.buf.within Config.maxPayloadLen ∧ s.enc.wf ∧ s.enc.within s.encCap

/-- The code tables meet their constraints (`30_encoding.md` R96). -/
abbrev State.CfgInv (s : State) : Prop := s.cfg.WellFormed

/-- A well-formed state: what every step keeps. -/
abbrev State.Inv (s : State) : Prop :=
  s.HaltInv ∧ s.LenInv ∧ s.AccInv ∧ s.ChannelInv ∧ s.WaitInv ∧ s.MemInv ∧ s.CfgInv

/-- The ingress agent moves next: the schedule is empty or names it (log 8). -/
abbrev State.ingressNext (s : State) : Prop := s.sched.head?.getD .ingress = .ingress

/-- A running ingress machine whose turn it is and that has the symbol `sym` at the head of RX. -/
abbrev State.Takes (s : State) (sym : Symbol) : Prop :=
  s.ingressNext ∧ s.phase ≠ .halt ∧ s.rx.head? = some sym

/-- The state after the turn is given and the symbol removed: what the ingress step works on. -/
def State.taken (s : State) : State := { s with rx := s.rx.tail, sched := s.sched.tail }

/-! Words the claims use. -/

/-- `n` steps one after the other; the first fault or refusal ends them. -/
def runSteps : Nat → State → Host.Outcome State Fault Refusal
  | 0, s => .next s
  | n + 1, s =>
    match step s with
    | .next t => runSteps n t
    | .fault r => .fault r
    | .refused r => .refused r

/-- One bit of one byte of a slice flipped (`40_encode.md` R121, `41_ingress.md` R168). -/
def flipBit (w : List Byte) (i n : Nat) : List Byte := w.modify i (· ^^^ BitVec.twoPow 8 n)

/-- An outcome with a function applied to its next state. -/
def mapNext (f : State → State) : Host.Outcome State Fault Refusal → Host.Outcome State Fault Refusal
  | .next s => .next (f s)
  | .fault r => .fault r
  | .refused r => .refused r

/-- The frames that have entered a channel, as its consumer sees them: those dequeued, then those queued
(`43_channels.md` R232). -/
def Channel.history {K : Type} (c : Channel K) : List (Frame K) := c.out ++ c.queue

/-- The moves that may touch the transmit stream: those of the Host that write a Request (`20_memory.md` R62). -/
def Move.writesTx : Move → Bool
  | .request _ _ | .call _ => true
  | _ => false

/-- The registers of the ingress machine, BUF read byte by byte, and the two counters it alone writes
(`10_state.md` R22 to R28, R36). -/
abbrev State.SameIngress (s t : State) : Prop :=
  t.phase = s.phase ∧ t.cmd = s.cmd ∧ t.len = s.len ∧ t.idx = s.idx ∧ t.acc = s.acc ∧ t.err = s.err ∧
  (∀ a, t.buf.read a = s.buf.read a) ∧
  t.chkerrCnt = s.chkerrCnt ∧ t.unknownCnt = s.unknownCnt ∧ t.resyncCnt = s.resyncCnt

/-- The host side, ENC read byte by byte, and the environment (`10_state.md` R21). -/
abbrev State.SameHost (s t : State) : Prop :=
  t.tx = s.tx ∧ t.inflight = s.inflight ∧ t.results = s.results ∧ (∀ a, t.enc.read a = s.enc.read a) ∧
  t.encCap = s.encCap ∧ t.txPort = s.txPort ∧ t.cfg = s.cfg ∧ t.sched = s.sched ∧ t.rx = s.rx ∧ t.fresh = s.fresh

end Sys2Proof.Machine
end

