-- ==== Sys2Proof/Certificates/Slice0/Obligations.lean ====
section
/-! DEFINITION. The statements for the provers. Each names the rule of the spec it formalises. -/

open Sys2Proof Sys2Proof.Machine

/-! The step and the decoder. -/

/-- A step runs the decoded instruction (R78, R150, R156). When the candidate's bytes with the byte at the head of RX decode to an
instruction, the step is its meaning on the state from which the symbol was removed and the turn taken; a Request
scheduled by the Host is its meaning on the state from which the turn was taken. -/
def Obligations.StepRunsDecodedInstruction : Prop :=
  (∀ (s : State) (b : Byte) (w : List Byte) (i : Instr), s.Inv → s.Takes (.byte b) → s.candidate = some w →
    decodeRx s.cfg (w ++ [b]) = .ok (i, []) → step s = exec i s.taken) ∧
  (∀ (s : State) (k : Request) (p : List Byte) (ms : List Move), s.sched = .request k p :: ms → s.inflight = .idle →
    step s = exec (.ofRequest k p) { s with sched := ms })

/-- Words and frames written out from the spec's encodings decode to what they stand for (R108, R100 to R102; the frames of V70 and
V26a, and V70's with a wrong checksum, R92). The codes are `REFCODES`, the spec's default (log 1). The model's own here: a
word gives no payload, so that of 0x025101 is zeros (log 9, DESIGN CHOICE), and 0x020000, whose code is a Request's, is read as
the Request row (log 10, DEDUCED). -/
def Obligations.SpecWordsDecode : Prop :=
  decodeTableWord 24 0x020000 = some (.reqSendData []) ∧
  decodeTableWord 24 0x025101 = some (.rspTransmitPower [0x00#8]) ∧
  decodeTableWord 24 0x028500 = some (.evtReset []) ∧
  decodeTableWord 24 0x0240E1 = some (.rxIllegalLength 0x40#8 0xE1#8) ∧
  decodeTableWord 24 0x027E00 = some (.rxUnknownId 0x7E#8 []) ∧
  decodeTableWord 8 0xFF = some (.rxResyncByte 0xFF#8) ∧
  decodeRx Config.reference [0x02#8, 0x40#8, 0x01#8, 0x00#8, 0x43#8] = .ok (.rspSendData [0x00#8], []) ∧
  decodeRx Config.reference [0x02#8, 0x40#8, 0x01#8, 0x00#8, 0x42#8] = .error .checksum ∧
  decodeTx Config.reference [0x02#8, 0x11#8, 0x01#8, 0x32#8, 0x20#8] = .ok (.reqTransmitPower [0x32#8], [])

/-- Decode of encode is the identity (R106, R141): every well-formed instruction, in its direction, with any bytes after it, under
every configuration that meets R96. -/
def Obligations.DecodeOfEncodeIsIdentity : Prop :=
  ∀ (cfg : Config) (i : Instr) (rest : List Byte), cfg.WellFormed → i.wf cfg = true →
    ∃ w, encode cfg i = some w ∧ decode cfg i.direction (w ++ rest) = .ok (i, rest)

/-- Encode of decode is the identity (R101 to R103, R105): what a decoder answers is well-formed, travels in that direction, and its
encoding is exactly the bytes that were consumed. -/
def Obligations.EncodeOfDecodeIsIdentity : Prop :=
  ∀ (cfg : Config) (dir : Direction) (w : List Byte) (i : Instr) (rest : List Byte), decode cfg dir w = .ok (i, rest) →
    i.direction = dir ∧ i.wf cfg = true ∧ ∃ v, encode cfg i = some v ∧ w = v ++ rest

/-- R92: a slice is a well-formed frame exactly when its first byte is START, its third is at most 224, its length is `4 + ` that and
its exclusive-or is zero; and (R106) exactly when it is `FRAME(c, p)` of some code and some payload of at most 224 bytes. -/
def Obligations.WellFormedFramesAreFrames : Prop :=
  ∀ w : List Byte,
    (frameWf w = true ↔ w[0]? = some 0x02#8 ∧ checksum w = 0#8 ∧
      ∃ l : Byte, w[2]? = some l ∧ l.toNat ≤ 224 ∧ w.length = 4 + l.toNat) ∧
    (frameWf w = true ↔ ∃ (c : Byte) (p : List Byte), p.length ≤ 224 ∧ w = frame c p)

/-- R121, all five laws of the checksum. -/
def Obligations.ChecksumLaws : Prop :=
  (∀ s t : List Byte, checksum (s ++ t) = checksum s ^^^ checksum t) ∧
  (∀ s t : List Byte, s.Perm t → checksum s = checksum t) ∧
  (∀ s : List Byte, checksum (s ++ [checksum s]) = 0#8) ∧
  (∀ (s : List Byte) (i n : Nat), i < s.length → n < 8 →
    checksum (flipBit s i n) = checksum s ^^^ BitVec.twoPow 8 n ∧ checksum (flipBit s i n) ≠ checksum s ∧
    checksum s ≠ checksum s ^^^ BitVec.twoPow 8 n) ∧
  (∀ (s : List Byte) (i j n : Nat), i < s.length → j < s.length → i ≠ j → n < 8 →
    checksum (flipBit (flipBit s i n) j n) = checksum s)

/-- R94, R95: `decode_header` returns the second and third byte, or PayloadLength above 224; it does not look at the first. -/
def Obligations.DecodeHeaderReadsLength : Prop :=
  ∀ h0 h1 h2 : Byte,
    (h2.toNat ≤ 224 → decodeHeader h0 h1 h2 = .ok (h1, h2.toNat)) ∧
    (224 < h2.toNat → decodeHeader h0 h1 h2 = .error .payloadLength)

/-- R167: the checks of `decode_frame` in their order, first failure wins, and what it returns when all pass. -/
def Obligations.DecodeFrameFirstFailureWins : Prop :=
  (∀ w : List Byte, w.length < 4 → decodeFrame w = .error .truncated) ∧
  ∀ (s c l : Byte) (body : List Byte), 1 ≤ body.length →
    decodeFrame (s :: c :: l :: body) =
      if s ≠ 0x02#8 then .error .startByte
      else if 224 < l.toNat then .error .payloadLength
      else if body.length + 3 ≠ 4 + l.toNat then .error .lengthMismatch
      else if checksum (s :: c :: l :: body.take l.toNat) ≠ body.getLastD 0#8 then .error .checksum
      else .ok (c, body.take l.toNat)

/-- R168: one bit flipped at offset 1 or later of a well-formed frame makes the slice decoder refuse it, by one of the checks
3 to 5. -/
def Obligations.SingleBitFlipRejected : Prop :=
  ∀ (w : List Byte) (i n : Nat), frameWf w = true → 1 ≤ i → i < w.length → n < 8 →
    checksum (flipBit w i n) ≠ 0#8 ∧
    (decodeFrame (flipBit w i n) = .error .payloadLength ∨ decodeFrame (flipBit w i n) = .error .lengthMismatch ∨
      decodeFrame (flipBit w i n) = .error .checksum)

/-- R181: `classify` by the code tables, total, under the constraints of R96. -/
def Obligations.ClassifyIsTotalLookup : Prop :=
  ∀ (cfg : Config) (c : Byte), cfg.WellFormed →
    (∀ k, cfg.rsp k = c → classify cfg c = .response k) ∧
    (∀ k, cfg.evt k = some c → classify cfg c = .event k) ∧
    ((∀ k, cfg.rsp k ≠ c) → (∀ k, cfg.evt k ≠ some c) → classify cfg c = .unknown)

/-! The ingress machine, one transition each. -/

/-- R151. -/
def Obligations.SeekTakesStartByte : Prop :=
  ∀ s : State, s.Takes (.byte 0x02#8) → s.phase = .seek →
    step s = .next { s.taken with acc := 0x02#8, phase := .cmd }

/-- R152. The count is R36's saturating increment. -/
def Obligations.SeekDiscardsOtherBytes : Prop :=
  ∀ (s : State) (b : Byte), s.Takes (.byte b) → s.phase = .seek → b ≠ 0x02#8 →
    step s = .next { s.taken with resyncCnt := satInc s.resyncCnt }

/-- R153. -/
def Obligations.CommandByteTaken : Prop :=
  ∀ (s : State) (b : Byte), s.Takes (.byte b) → s.phase = .cmd →
    step s = .next { s.taken with cmd := b, acc := s.acc ^^^ b, phase := .len }

/-- R154. -/
def Obligations.LegalLengthTaken : Prop :=
  ∀ (s : State) (b : Byte), s.Takes (.byte b) → s.phase = .len → b.toNat ≤ 224 →
    step s = .next { s.taken with
      len := b, acc := s.acc ^^^ b, idx := 0#8, phase := if b = 0#8 then .chk else .payload }

/-- R155, with the frame of the store: BUF changes at IDX and nowhere else. -/
def Obligations.PayloadByteStored : Prop :=
  ∀ (s : State) (b : Byte), s.Inv → s.Takes (.byte b) → s.phase = .payload →
    ∃ m : Memory, step s = .next { s.taken with
        buf := m, acc := s.acc ^^^ b, idx := s.idx + 1#8
        phase := if s.idx + 1#8 = s.len then .chk else .payload } ∧
      m.read s.idx.toNat = some b ∧ ∀ a, a ≠ s.idx.toNat → m.read a = s.buf.read a

/-- R156, R205: the data is `BUF[0..LEN)`, exactly one output of the mux is selected by `classify(CMD)`, and PHASE becomes
SEEK. -/
def Obligations.ChecksumMatchRoutes : Prop :=
  ∀ s : State, s.Inv → s.Takes (.byte s.acc) → s.phase = .chk →
    ∃ data : List Byte, data.length = s.len.toNat ∧ (∀ i, i < s.len.toNat → s.buf.read i = data[i]?) ∧
      step s = .next
        (match classify s.cfg s.cmd with
        | .response k => { s.taken with rch := (s.rch.push 2 { command := k, data := data }).2, phase := .seek }
        | .event k => { s.taken with ech := (s.ech.push 16 { command := k, data := data }).2, phase := .seek }
        | .unknown => { s.taken with unknownCnt := satInc s.unknownCnt, phase := .seek })

/-- R157. -/
def Obligations.ChecksumMismatchDiscards : Prop :=
  ∀ (s : State) (b : Byte), s.Takes (.byte b) → s.phase = .chk → b ≠ s.acc →
    step s = .next { s.taken with chkerrCnt := satInc s.chkerrCnt, phase := .seek }

/-- R158. -/
def Obligations.IllegalLengthHalts : Prop :=
  ∀ (s : State) (b : Byte), s.Takes (.byte b) → s.phase = .len → 224 < b.toNat →
    step s = .next { s.taken with err := .payloadLength, phase := .halt }

/-- R159, in any of the five running phases. -/
def Obligations.TransportErrorHalts : Prop :=
  ∀ (s : State) (e : IoError), s.Takes (.ioErr e) →
    step s = .next { s.taken with err := .io e, phase := .halt }

/-- R160, R161: halted or without a symbol, the machine takes nothing and changes nothing; only the turn passes. -/
def Obligations.HaltedOrStarvedTakesNothing : Prop :=
  ∀ s : State, s.ingressNext → s.phase = .halt ∨ s.rx = [] →
    step s = .next { s with sched := s.sched.tail }

/-! The instructions: what each answers, and what it leaves unchanged. -/

/-- R122, R140 and R126 to R139, all 14 Request rows (reqSendData, reqSendDataEx, reqSetMode, reqReset, reqSetChannel,
reqSetDestinationNetworkId, reqSetDestinationAddress, reqSetUserSetting, reqGetUserSetting, reqRssi, reqShutdown, reqStandby,
reqTransmitPower, reqFactoryReset): with a payload within bounds, a buffer long enough and a transport that accepts, the
frame is in ENC from address 0, on TX as one run, ENC beyond it keeps its bytes, and nothing else changes. -/
def Obligations.RequestEncodesAndTransmits : Prop :=
  ∀ (k : Request) (p : List Byte) (s : State), p.length ≤ 224 → 4 + p.length ≤ s.encCap → s.txPort = .accepts →
    ∃ m : Memory,
      exec (.ofRequest k p) s = .next { s with enc := m, tx := s.tx ++ frame (s.cfg.req k) p } ∧
      (∀ a, a < 4 + p.length → m.read a = (frame (s.cfg.req k) p)[a]?) ∧
      ∀ a, 4 + p.length ≤ a → m.read a = s.enc.read a

/-- R254, R62, U12, all 14 Request rows: when the transport fails, the caller gets `Error::Io`, some number of leading bytes of
the frame has been appended, and nothing of the block changes. -/
def Obligations.RequestWriteErrorReported : Prop :=
  ∀ (k : Request) (p : List Byte) (s : State) (n : Nat) (e : IoError),
    p.length ≤ 224 → 4 + p.length ≤ s.encCap → s.txPort = .fails n e →
    ∃ m : Memory,
      exec (.ofRequest k p) s = .next { s with
        enc := m, tx := s.tx ++ (frame (s.cfg.req k) p).take n, results := s.results ++ [.ioError e] } ∧
      (∀ a, a < 4 + p.length → m.read a = (frame (s.cfg.req k) p)[a]?) ∧
      ∀ a, 4 + p.length ≤ a → m.read a = s.enc.read a

/-- R123, R124: the two contract faults of `encode`, the payload checked first, and no other stop of a Request row. -/
def Obligations.EncodeContractFaults : Prop :=
  ∀ (k : Request) (p : List Byte) (s : State),
    (224 < p.length → exec (.ofRequest k p) s = .fault (.encodeContract .payloadTooLong)) ∧
    (p.length ≤ 224 → s.encCap < 4 + p.length →
      exec (.ofRequest k p) s = .fault (.encodeContract .bufferTooShort)) ∧
    (p.length ≤ 224 → 4 + p.length ≤ s.encCap → ∃ t, exec (.ofRequest k p) s = .next t)

/-- Frame of the 14 Request rows (R122, R254): no register of the ingress machine, no channel, no BUF byte, no receive symbol and
no parameter changes; ENC changes only in its first `4 + n` bytes. -/
def Obligations.RequestFrame : Prop :=
  ∀ (k : Request) (p : List Byte) (s t : State), exec (.ofRequest k p) s = .next t →
    s.SameIngress t ∧ t.rch = s.rch ∧ t.ech = s.ech ∧ t.rx = s.rx ∧ t.inflight = s.inflight ∧
    t.encCap = s.encCap ∧ t.txPort = s.txPort ∧ t.cfg = s.cfg ∧ t.sched = s.sched ∧ t.fresh = s.fresh ∧
    ∀ a, 4 + p.length ≤ a → t.enc.read a = s.enc.read a

/-- R221 for RQ and R185 to R197, all 13 Response rows (rspSendData, rspSetMode, rspReset, rspSetChannel,
rspSetDestinationNetworkId, rspSetDestinationAddress, rspSetUserSetting, rspGetUserSetting, rspRssi, rspShutdown, rspStandby,
rspTransmitPower, rspFactoryReset): in a running machine with room the frame is appended to RQ, PHASE becomes SEEK, and
outside the channel nothing else changes. -/
def Obligations.ResponsePushedWithRoom : Prop :=
  ∀ (k : Response) (d : List Byte) (s : State), s.phase ≠ .halt → s.rch.queue.length < 2 →
    ∃ ch : Channel Response, exec (.ofResponse k d) s = .next { s with rch := ch, phase := .seek } ∧
      ch.queue = s.rch.queue ++ [{ command := k, data := d }] ∧ ch.dropCnt = s.rch.dropCnt ∧ ch.out = s.rch.out

/-- R221 for EQ and R199 to R203, all 5 Event rows (evtDataRepeat, evtDataReceived, evtReset, evtWakeup, evtPacketTransmit). -/
def Obligations.EventPushedWithRoom : Prop :=
  ∀ (k : Event) (d : List Byte) (s : State), s.phase ≠ .halt → s.ech.queue.length < 16 →
    ∃ ch : Channel Event, exec (.ofEvent k d) s = .next { s with ech := ch, phase := .seek } ∧
      ch.queue = s.ech.queue ++ [{ command := k, data := d }] ∧ ch.dropCnt = s.ech.dropCnt ∧ ch.out = s.ech.out

/-- R222: a push onto a full channel answers `full`; the new frame is lost and counted, no queued one is, nobody is woken, and the
instruction completes with PHASE in SEEK. Both channels. -/
def Obligations.FullChannelDropsNewFrame : Prop :=
  (∀ (k : Response) (d : List Byte) (s : State), s.phase ≠ .halt → s.rch.queue.length = 2 →
    (s.rch.push 2 { command := k, data := d }).1 = .full ∧
    exec (.ofResponse k d) s =
      .next { s with rch := { s.rch with dropCnt := satInc s.rch.dropCnt }, phase := .seek }) ∧
  (∀ (k : Event) (d : List Byte) (s : State), s.phase ≠ .halt → s.ech.queue.length = 16 →
    (s.ech.push 16 { command := k, data := d }).1 = .full ∧
    exec (.ofEvent k d) s =
      .next { s with ech := { s.ech with dropCnt := satInc s.ech.dropCnt }, phase := .seek })

/-- R152, R158, R207 for the three rows that are no variant (rxResyncByte, rxIllegalLength, rxUnknownId), in a running machine. -/
def Obligations.ByteClassesComplete : Prop :=
  ∀ (s : State) (b c l : Byte) (d : List Byte), s.phase ≠ .halt →
    exec (.rxResyncByte b) s = .next { s with resyncCnt := satInc s.resyncCnt } ∧
    exec (.rxIllegalLength c l) s = .next { s with err := .payloadLength, phase := .halt } ∧
    exec (.rxUnknownId c d) s = .next { s with unknownCnt := satInc s.unknownCnt, phase := .seek }

/-- Frame of the 13 Response, the 5 Event and the 3 byte-class rows: CMD, LEN, IDX, ACC, every BUF and ENC byte, TX, RX, INFLIGHT and
the parameters are unchanged; the other channel is unchanged, and the own channel keeps the frames it holds, in their order
and at its head, and those dequeued (R205, R221, R222, R233, R158). -/
def Obligations.ReceivedInstructionFrame : Prop :=
  ∀ (i : Instr) (s t : State), i.direction = .rx → exec i s = .next t →
    t.cmd = s.cmd ∧ t.len = s.len ∧ t.idx = s.idx ∧ t.acc = s.acc ∧ (∀ a, t.buf.read a = s.buf.read a) ∧
    t.chkerrCnt = s.chkerrCnt ∧ s.SameHost t ∧
    t.rch.out = s.rch.out ∧ t.ech.out = s.ech.out ∧
    s.rch.queue <+: t.rch.queue ∧ s.ech.queue <+: t.ech.queue ∧
    ((∀ k d, i ≠ .ofResponse k d) → t.rch = s.rch) ∧ ((∀ k d, i ≠ .ofEvent k d) → t.ech = s.ech) ∧
    ((∀ c l, i ≠ .rxIllegalLength c l) → t.err = s.err) ∧
    ((∀ c d, i ≠ .rxUnknownId c d) → t.unknownCnt = s.unknownCnt) ∧
    ((∀ b, i ≠ .rxResyncByte b) → t.resyncCnt = s.resyncCnt)

/-- R160: a halted machine runs no received row: the 13 Response, the 5 Event and the 3 byte-class rows change nothing in HALT (that
`exec` answers so there is the model's reading, log 19). -/
def Obligations.HaltedMachineRunsNoReceivedRow : Prop :=
  ∀ (i : Instr) (s : State), i.direction = .rx → s.phase = .halt → exec i s = .next s

/-! The channels. -/

/-- R226: the waiting consumer is woken exactly by a successful push onto the empty queue, in the same step; no other push changes
the waiter flag. Both channels. -/
def Obligations.WakeExactlyOnEmptyPush : Prop :=
  (∀ (k : Response) (d : List Byte) (s t : State), s.phase ≠ .halt → exec (.ofResponse k d) s = .next t →
    (s.rch.queue = [] ∧ s.rch.wait = true → t.rch.wait = false ∧ t.rch.woken = true) ∧
    (s.rch.queue ≠ [] ∨ s.rch.wait = false → t.rch.wait = s.rch.wait ∧ t.rch.woken = s.rch.woken)) ∧
  (∀ (k : Event) (d : List Byte) (s t : State), s.phase ≠ .halt → exec (.ofEvent k d) s = .next t →
    (s.ech.queue = [] ∧ s.ech.wait = true → t.ech.wait = false ∧ t.ech.woken = true) ∧
    (s.ech.queue ≠ [] ∨ s.ech.wait = false → t.ech.wait = s.ech.wait ∧ t.ech.woken = s.ech.woken))

/-- R223: `pop` on an empty queue changes nothing; otherwise it removes the head and returns it, here to the consumer's record of
dequeued frames (log 18). Only a consumer outside `wait_and_pop` has this step (log 15). -/
def Obligations.PopRemovesHead : Prop :=
  (∀ (s : State) (ms : List Move), s.sched = .popResponse :: ms → s.rch.busy = false →
    (s.rch.queue = [] → step s = .next { s with sched := ms }) ∧
    (∀ f q, s.rch.queue = f :: q →
      step s = .next { s with rch := { s.rch with queue := q, out := s.rch.out ++ [f] }, sched := ms })) ∧
  (∀ (s : State) (ms : List Move), s.sched = .popEvent :: ms → s.ech.busy = false →
    (s.ech.queue = [] → step s = .next { s with sched := ms }) ∧
    (∀ f q, s.ech.queue = f :: q →
      step s = .next { s with ech := { s.ech with queue := q, out := s.ech.out ++ [f] }, sched := ms }))

/-- R263, R224, R225: `next_event()` returns the head of EQ at once, or registers the waiter and suspends. -/
def Obligations.NextEventReturnsOrWaits : Prop :=
  ∀ (s : State) (ms : List Move), s.sched = .nextEvent :: ms → s.ech.busy = false →
    (∀ f q, s.ech.queue = f :: q →
      step s = .next { s with ech := { s.ech with queue := q, out := s.ech.out ++ [f] }, sched := ms }) ∧
    (s.ech.queue = [] → step s = .next { s with ech := { s.ech with wait := true }, sched := ms })

/-- R225, R228: a suspended consumer has no step: its turns change nothing until a push wakes it. -/
def Obligations.SuspendedConsumerHasNoStep : Prop :=
  (∀ (s : State) (ms : List Move), s.sched = .host :: ms → s.rch.wait = true → step s = .next { s with sched := ms }) ∧
  (∀ (s : State) (ms : List Move), s.Inv → s.sched = .eventCaller :: ms → s.ech.wait = true →
    step s = .next { s with sched := ms })

/-- R227: the woken EventCaller's next step removes and returns the oldest frame; the queue is not empty then. -/
def Obligations.WokenConsumerGetsOldest : Prop :=
  ∀ (s : State) (ms : List Move), s.Inv → s.sched = .eventCaller :: ms → s.ech.woken = true →
    ∃ f q, s.ech.queue = f :: q ∧
      step s = .next { s with
        ech := { s.ech with queue := q, woken := false, out := s.ech.out ++ [f] }, sched := ms }

/-- R233: an operation on one channel neither reads nor writes the other: the outcome is the same but for the other channel, which
passes through unchanged. Both pushes, as the Response and Event rows make them; and every operation of the consumers: pop,
wait_and_pop with its resumption, and the cancelled wait, as the moves that make them. -/
def Obligations.ChannelsAreIndependent : Prop :=
  (∀ (k : Response) (d : List Byte) (s : State) (e : Channel Event),
    exec (.ofResponse k d) { s with ech := e } = mapNext (fun t => { t with ech := e }) (exec (.ofResponse k d) s)) ∧
  (∀ (k : Event) (d : List Byte) (s : State) (r : Channel Response),
    exec (.ofEvent k d) { s with rch := r } = mapNext (fun t => { t with rch := r }) (exec (.ofEvent k d) s)) ∧
  (∀ (m : Move) (ms : List Move) (s : State) (e : Channel Event), m ∈ [Move.popResponse, .host, .timeout] →
    s.sched = m :: ms → step { s with ech := e } = mapNext (fun t => { t with ech := e }) (step s)) ∧
  (∀ (m : Move) (ms : List Move) (s : State) (r : Channel Response), m ∈ [Move.nextEvent, .eventCaller, .popEvent] →
    s.sched = m :: ms → step { s with rch := r } = mapNext (fun t => { t with rch := r }) (step s))

/-! The host. -/

/-- R252 step 1, R126 to R139, R267 to R276: a call within its bounds, with no command in flight, encodes its Request frame into ENC,
writes it and makes INFLIGHT await it; a failing write ends it with `Error::Io` and INFLIGHT Idle (R254). ENC holds the frame
from address 0 and beyond it reads as before (R64). One step, and the partial write as input: logs 11 and 12. -/
def Obligations.CallWritesRequest : Prop :=
  ∀ (s : State) (c : Call) (ms : List Move), s.sched = .call c :: ms → s.inflight = .idle → c.fits = true →
    4 + c.payload.length ≤ s.encCap →
    ∃ m : Memory,
      (∀ a, a < 4 + c.payload.length → m.read a = (frame (s.cfg.req c.request) c.payload)[a]?) ∧
      (∀ a, 4 + c.payload.length ≤ a → m.read a = s.enc.read a) ∧
      (s.txPort = .accepts → step s = .next { s with
        enc := m, tx := s.tx ++ frame (s.cfg.req c.request) c.payload
        inflight := .awaiting c.command, sched := ms }) ∧
      (∀ n e, s.txPort = .fails n e → step s = .next { s with
        enc := m, tx := s.tx ++ (frame (s.cfg.req c.request) c.payload).take n
        results := s.results ++ [.ioError e], sched := ms })

/-- R253: while a command is in flight no other is started and no other Request written: the host has no such step, and the
model refuses it. -/
def Obligations.SecondCommandRefused : Prop :=
  ∀ (s : State) (cur : Command) (ms : List Move), s.inflight = .awaiting cur →
    (∀ c : Call, s.sched = .call c :: ms → step s = .refused .commandInFlight) ∧
    (∀ (k : Request) (p : List Byte), s.sched = .request k p :: ms → step s = .refused .commandInFlight)

/-- R258: `send` with more than 220 bytes is refused before `encode`. That the refusal is the fault of R123 is DEDUCED, log 16: R258
says "the kind of refusal is not stated and this spec treats it like the contract fault of `40_encode.md` rule R123". -/
def Obligations.SendOverLimitFaults : Prop :=
  ∀ (s : State) (bytes : List Byte) (ms : List Move), s.sched = .call (.send bytes) :: ms → s.inflight = .idle →
    220 < bytes.length → step s = .fault (.encodeContract .payloadTooLong)

/-- R255, R225: the Host awaiting its Response on an empty RQ registers the waiter and is suspended. -/
def Obligations.HostAwaitsOnEmptyQueue : Prop :=
  ∀ (s : State) (c : Command) (ms : List Move), s.sched = .host :: ms → s.inflight = .awaiting c →
    s.rch.busy = false → s.rch.queue = [] →
    step s = .next { s with rch := { s.rch with wait := true }, sched := ms }

/-- R256, R268 to R276, the table of success tests, for a dequeued Response of the expected kind or under `accept_any`: the head of RQ
is removed, INFLIGHT becomes Idle and the method returns what its test says of the status byte. -/
def Obligations.SuccessPredicates : Prop :=
  ∀ (s : State) (c : Command) (f : Frame Response) (q : List (Frame Response)) (b : Byte) (d : List Byte) (ms : List Move),
    s.sched = .host :: ms → s.inflight = .awaiting c → s.rch.wait = false → s.rch.queue = f :: q → f.data = b :: d →
    s.cfg.respMismatch = .acceptAny ∨ f.command = c.expected →
    ∃ r : HostResult,
      step s = .next { s with
        rch := { s.rch with queue := q, woken := false, out := s.rch.out ++ [f] }
        results := s.results ++ [r], inflight := .idle, sched := ms } ∧
      match c with
      | .send => (b = 0#8 → r = .ok) ∧ (b ≠ 0#8 → r = .status (.sendData (sendDataError s.cfg b)))
      | .reset | .factoryReset | .standby | .destinationNet | .destinationAddress | .mode =>
        (b = 0#8 → r = .ok) ∧ (b ≠ 0#8 → r = .status .unit)
      | .txPower p => (b = p → r = .ok) ∧ (b ≠ p → r = .status .unit)
      | .channel ch => (b = ch → r = .ok) ∧ (b ≠ ch → r = .status .unit)
      | .rssi => r = .byte b

/-- R257, the value `skip_until_match`: a Response of another kind is dropped by the host and the wait continues. That each skipped
Response is one step of the host and stands in the record of dequeued frames is the model's choice, log 23; the fields `out`
and `woken` are its own, logs 18 and 15. -/
def Obligations.MismatchedResponseSkipped : Prop :=
  ∀ (s : State) (c : Command) (f : Frame Response) (q : List (Frame Response)) (ms : List Move),
    s.sched = .host :: ms → s.inflight = .awaiting c → s.rch.wait = false → s.rch.queue = f :: q →
    s.cfg.respMismatch = .skipUntilMatch → f.command ≠ c.expected →
    step s = .next { s with
      rch := { s.rch with queue := q, woken := false, out := s.rch.out ++ [f] }, sched := ms }

/-- R259: a dequeued Response with empty data has no status byte; the run is refused at that point. -/
def Obligations.EmptyResponseRefused : Prop :=
  ∀ (s : State) (c : Command) (f : Frame Response) (q : List (Frame Response)) (ms : List Move),
    s.sched = .host :: ms → s.inflight = .awaiting c → s.rch.wait = false → s.rch.queue = f :: q → f.data = [] →
    s.cfg.respMismatch = .acceptAny ∨ f.command = c.expected → step s = .refused .emptyStatus

/-- R261: `from(s)` is total on the non-zero bytes: the variant whose code the byte is, else `Other` with the byte kept. -/
def Obligations.SendDataErrorIsTotal : Prop :=
  ∀ (cfg : Config) (b : Byte), cfg.WellFormed →
    (sendDataError cfg b = .ackTimeout ↔ b = cfg.sdeCodes.ackTimeout) ∧
    (sendDataError cfg b = .invalidChannel ↔ b = cfg.sdeCodes.invalidChannel) ∧
    (sendDataError cfg b = .channelBusy ↔ b = cfg.sdeCodes.channelBusy) ∧
    (sendDataError cfg b = .moduleBusy ↔ b = cfg.sdeCodes.moduleBusy) ∧
    (sendDataError cfg b = .payloadInvalid ↔ b = cfg.sdeCodes.payloadInvalid) ∧
    (b ∉ cfg.sdeList → sendDataError cfg b = .other b)

/-- R265, R230: an expiry while the Host is suspended on an empty RQ; with RESP_TIMEOUT "never" there is none. The spec only disables
the step then: that a scheduled expiry passes as a step that changes nothing but the schedule is the model's choice, log 8. -/
def Obligations.TimeoutCancelsWait : Prop :=
  ∀ (s : State) (c : Command) (ms : List Move), s.sched = .timeout :: ms → s.inflight = .awaiting c →
    (s.cfg.respTimeout = .bounded → s.rch.wait = true → s.rch.queue = [] →
      step s = .next { s with
        rch := { s.rch with wait := false }, inflight := .idle, results := s.results ++ [.timeout], sched := ms }) ∧
    (s.cfg.respTimeout = .never → step s = .next { s with sched := ms })

/-! RESTART and RESET. -/

/-- R307: RESTART in HALT clears ERR, seeks again and keeps the channels, the flags, the counters and RX; CMD, LEN and ACC are
unspecified, so nothing is said of them; in any other phase it has no effect. -/
def Obligations.RestartLeavesHalt : Prop :=
  ∀ (s : State) (ms : List Move), s.sched = .restart :: ms →
    (s.phase = .halt → ∃ c l a : Byte, ∃ m : Memory, ∃ n : Nat, step s = .next { s with
      err := .none, phase := .seek, idx := 0#8, cmd := c, len := l, acc := a, buf := m, fresh := n, sched := ms }) ∧
    (s.phase ≠ .halt → step s = .next { s with sched := ms })

/-- R41, R333: the values the spec states for reset. (The state after reset also holds values that the model chose, logs 5 to 12: this
statement names none of them.) -/
def Obligations.ResetValues : Prop :=
  State.reset.phase = .seek ∧ State.reset.err = .none ∧ State.reset.idx = 0#8 ∧
  State.reset.rch.queue = [] ∧ State.reset.ech.queue = [] ∧ State.reset.rch.wait = false ∧ State.reset.ech.wait = false ∧
  State.reset.rch.dropCnt = 0#32 ∧ State.reset.ech.dropCnt = 0#32 ∧ State.reset.chkerrCnt = 0#32 ∧
  State.reset.unknownCnt = 0#32 ∧ State.reset.resyncCnt = 0#32 ∧ State.reset.inflight = .idle

/-! Invariants and rules of the whole machine. -/

/-- R30 for the ingress registers, R231 and R8 for the channels, R63 and R64 for BUF and ENC, R96 and R262 for the tables, R252 for the
Host's wait: every step keeps the invariant, from every state that meets it. What it says of the bit `woken` rests on R227, and
the bit itself is the model's (log 15), as are the memories' canonical form and bytes without a value (log 6). -/
def Obligations.StepKeepsInvariant : Prop :=
  ∀ s t : State, s.Inv → step s = .next t → t.Inv

/-- The state after reset meets the invariant. The state holds values the model chose: logs 1, 5, 6, 11 and 15. -/
def Obligations.ResetMeetsInvariant : Prop := State.reset.Inv

/-- R232, R73: in every run from every state, each channel is first-in first-out and every frame leaves it once: what has entered
keeps its order and its frames, and what was dequeued stays dequeued. -/
def Obligations.ChannelsAreFifo : Prop :=
  ∀ (n : Nat) (s t : State), runSteps n s = .next t →
    s.rch.history <+: t.rch.history ∧ s.rch.out <+: t.rch.out ∧
    s.ech.history <+: t.ech.history ∧ s.ech.out <+: t.ech.out

/-- R169: a frame enters a channel only by an ingress step that takes a byte equal to ACC in phase CHK, at most one, with the
command that `classify(CMD)` names and the data `BUF[0..LEN)`. -/
def Obligations.FramesBuiltOnlyByIngress : Prop :=
  ∀ s t : State, step s = .next t →
    (t.rch.history = s.rch.history ∧ t.ech.history = s.ech.history) ∨
    (s.Takes (.byte s.acc) ∧ s.phase = .chk ∧ ∃ d, s.buf.readBlock 0 s.len.toNat = some d ∧
      ((∃ k, classify s.cfg s.cmd = .response k ∧
          t.rch.history = s.rch.history ++ [{ command := k, data := d }] ∧ t.ech = s.ech) ∨
       (∃ k, classify s.cfg s.cmd = .event k ∧
          t.ech.history = s.ech.history ++ [{ command := k, data := d }] ∧ t.rch = s.rch)))

/-- R36, R162: the counters saturate at `2^32 - 1`, and no step lowers one (they are cleared only by reset). -/
def Obligations.CountersNeverDecrease : Prop :=
  (∀ c : Count, (satInc c).toNat = min (c.toNat + 1) (2 ^ 32 - 1)) ∧
  ∀ s t : State, step s = .next t →
    s.rch.dropCnt ≤ t.rch.dropCnt ∧ s.ech.dropCnt ≤ t.ech.dropCnt ∧ s.chkerrCnt ≤ t.chkerrCnt ∧
    s.unknownCnt ≤ t.unknownCnt ∧ s.resyncCnt ≤ t.resyncCnt

/-- R312, R20: every register has its owner. A step that is neither the ingress agent's turn nor RESTART leaves every ingress
register, BUF and the counters alone; only the Host dequeues from RQ and moves INFLIGHT, only the EventCaller dequeues from
EQ. -/
def Obligations.OwnersOnly : Prop :=
  ∀ s t : State, step s = .next t →
    (¬ s.ingressNext → s.sched.head? ≠ some .restart →
      s.SameIngress t ∧ t.rch.dropCnt = s.rch.dropCnt ∧ t.ech.dropCnt = s.ech.dropCnt) ∧
    (t.rch.out ≠ s.rch.out → s.sched.head? = some .host ∨ s.sched.head? = some .popResponse) ∧
    (t.ech.out ≠ s.ech.out → s.sched.head? = some .nextEvent ∨ s.sched.head? = some .eventCaller ∨
      s.sched.head? = some .popEvent) ∧
    (t.inflight ≠ s.inflight → s.sched.head? = some .host ∨ s.sched.head? = some .timeout ∨
      ∃ c, s.sched.head? = some (.call c))

/-- R38, R35, R29, R291: what the status view and the ingress result tell of a well-formed state. ST_PHASE has its six codes; the count
fields are wide enough for their queues; the emptiness, fullness and waiter flags and the five counters are the state's own;
and a halt shows in PHASE, in ERR and in the ingress result together. -/
def Obligations.StatusViewTellsState : Prop :=
  ∀ s : State, s.Inv →
    s.status.stPhase = (match s.phase with
      | .seek => 0#3 | .cmd => 1#3 | .len => 2#3 | .payload => 3#3 | .chk => 4#3 | .halt => 7#3) ∧
    s.status.rdropCnt = s.rch.dropCnt ∧ s.status.edropCnt = s.ech.dropCnt ∧ s.status.chkerrCnt = s.chkerrCnt ∧
    s.status.unknownCnt = s.unknownCnt ∧ s.status.resyncCnt = s.resyncCnt ∧
    s.status.stRCount.toNat = s.rch.queue.length ∧ s.status.stECount.toNat = s.ech.queue.length ∧
    (s.status.stREmpty = true ↔ s.rch.queue = []) ∧ (s.status.stRFull = true ↔ s.rch.queue.length = 2) ∧
    (s.status.stEEmpty = true ↔ s.ech.queue = []) ∧ (s.status.stEFull = true ↔ s.ech.queue.length = 16) ∧
    s.status.stRWait = s.rch.wait ∧ s.status.stEWait = s.ech.wait ∧
    (s.halted = true ↔ s.status.stPhase = 7#3) ∧ (s.halted = true ↔ s.status.stErr ≠ 0#2) ∧
    (s.halted = true ↔ s.ingressResult ≠ .running) ∧
    (s.status.stErr = 1#2 ↔ s.ingressResult = .errPayloadLength) ∧
    (s.status.stErr = 2#2 ↔ ∃ e, s.ingressResult = .errIo e)

/-- R28, R160, R308: the latch holds its first cause and the machine stays halted until RESTART. -/
def Obligations.HaltLeftOnlyByRestart : Prop :=
  ∀ s t : State, s.phase = .halt → step s = .next t →
    s.sched.head? = some .restart ∨ (t.phase = .halt ∧ t.err = s.err ∧ ∃ l, t.rx = s.rx ++ l)

/-- R62, R75: only a Host move that writes a Request appends to TX, and nothing already written is ever changed. -/
def Obligations.TransmitOnlyByHost : Prop :=
  ∀ s t : State, step s = .next t →
    s.tx <+: t.tx ∧ (t.tx ≠ s.tx → ∃ m, s.sched.head? = some m ∧ m.writesTx = true)

/-- R96 (iii), R21: the parameters are constants of the build. -/
def Obligations.ParametersAreConstant : Prop :=
  ∀ (n : Nat) (s t : State), runSteps n s = .next t → t.cfg = s.cfg

/-- R166, headline: from SEEK, the `4 + n` bytes of `FRAME(c, p)` take the machine through exactly `4 + n` steps, consume exactly those
bytes and run the instruction they stand for once, whatever `c` and `p` are, START bytes inside the frame included. -/
def Obligations.FrameRunsItsInstruction : Prop :=
  ∀ (s : State) (c : Byte) (p : List Byte) (rest : List Symbol), s.phase = .seek → s.sched = [] → p.length ≤ 224 →
    s.rx = (frame c p).map .byte ++ rest →
    ∃ m : Memory, m.readBlock 0 p.length = some p ∧
      runSteps (4 + p.length) s = exec (acceptedInstr s.cfg c p) { s with
        phase := .chk, cmd := c, len := BitVec.ofNat 8 p.length, idx := BitVec.ofNat 8 p.length
        acc := checksum (frameBody c p), buf := m, rx := rest } ∧
      ∃ t : State, runSteps (4 + p.length) s = .next t ∧ t.phase = .seek ∧ t.rx = rest ∧
        t.chkerrCnt = s.chkerrCnt

/-- R141: at the raw level, `decode_frame` of a Request's frame gives its code and its payload back, for every kind and every payload
of 0 to 224 bytes; and from SEEK with room in the channel, `FRAME(code(v), p)` pushes exactly the frame `v[p]`, for every
Response and every Event variant that the configuration gives a code. -/
def Obligations.RoundTrip : Prop :=
  (∀ (cfg : Config) (k : Request) (p : List Byte), p.length ≤ 224 →
    decodeFrame (frame (cfg.req k) p) = .ok (cfg.req k, p)) ∧
  ∀ (s : State) (p : List Byte) (rest : List Symbol), s.CfgInv → s.phase = .seek → s.sched = [] → p.length ≤ 224 →
    (∀ k : Response, s.rx = (frame (s.cfg.rsp k) p).map .byte ++ rest → s.rch.queue.length < 2 →
      ∃ t, runSteps (4 + p.length) s = .next t ∧
        t.rch.queue = s.rch.queue ++ [{ command := k, data := p }] ∧ t.ech = s.ech) ∧
    (∀ (k : Event) (c : Byte), s.cfg.evt k = some c → s.rx = (frame c p).map .byte ++ rest →
      s.ech.queue.length < 16 →
      ∃ t, runSteps (4 + p.length) s = .next t ∧
        t.ech.queue = s.ech.queue ++ [{ command := k, data := p }] ∧ t.rch = s.rch)

/-- R157, R164: from SEEK, a frame whose last byte is not its checksum is swallowed whole: after its `4 + n` bytes the machine seeks
again at the next symbol, one checksum error is counted, and no channel and no other counter changed. -/
def Obligations.CorruptedFrameSwallowed : Prop :=
  ∀ (s : State) (c k : Byte) (p : List Byte) (rest : List Symbol), s.phase = .seek → s.sched = [] → p.length ≤ 224 →
    k ≠ checksum (frameBody c p) → s.rx = (frameBody c p ++ [k]).map .byte ++ rest →
    ∃ t, runSteps (4 + p.length) s = .next t ∧ t.phase = .seek ∧ t.rx = rest ∧
      t.chkerrCnt = satInc s.chkerrCnt ∧ t.rch = s.rch ∧ t.ech = s.ech ∧ t.unknownCnt = s.unknownCnt ∧
      t.resyncCnt = s.resyncCnt
end

