-- ==== Sys2Proof/Laws/State.lean ====
section
/-! SUPPORT. What each named update of State does to each field: one lemma per field per update, all true by rfl. -/

namespace Sys2Proof.Machine

variable (s : State)

/-! `State.startCandidate`. -/

@[simp] theorem startCandidate_phase : (s.startCandidate).phase = .cmd := (rfl)
@[simp] theorem startCandidate_cmd : (s.startCandidate).cmd = s.cmd := (rfl)
@[simp] theorem startCandidate_len : (s.startCandidate).len = s.len := (rfl)
@[simp] theorem startCandidate_idx : (s.startCandidate).idx = s.idx := (rfl)
@[simp] theorem startCandidate_acc : (s.startCandidate).acc = Config.startByte := (rfl)
@[simp] theorem startCandidate_buf : (s.startCandidate).buf = s.buf := (rfl)
@[simp] theorem startCandidate_err : (s.startCandidate).err = s.err := (rfl)
@[simp] theorem startCandidate_rch : (s.startCandidate).rch = s.rch := (rfl)
@[simp] theorem startCandidate_ech : (s.startCandidate).ech = s.ech := (rfl)
@[simp] theorem startCandidate_chkerrCnt : (s.startCandidate).chkerrCnt = s.chkerrCnt := (rfl)
@[simp] theorem startCandidate_unknownCnt : (s.startCandidate).unknownCnt = s.unknownCnt := (rfl)
@[simp] theorem startCandidate_resyncCnt : (s.startCandidate).resyncCnt = s.resyncCnt := (rfl)
@[simp] theorem startCandidate_rx : (s.startCandidate).rx = s.rx := (rfl)
@[simp] theorem startCandidate_tx : (s.startCandidate).tx = s.tx := (rfl)
@[simp] theorem startCandidate_inflight : (s.startCandidate).inflight = s.inflight := (rfl)
@[simp] theorem startCandidate_enc : (s.startCandidate).enc = s.enc := (rfl)
@[simp] theorem startCandidate_encCap : (s.startCandidate).encCap = s.encCap := (rfl)
@[simp] theorem startCandidate_txPort : (s.startCandidate).txPort = s.txPort := (rfl)
@[simp] theorem startCandidate_results : (s.startCandidate).results = s.results := (rfl)
@[simp] theorem startCandidate_cfg : (s.startCandidate).cfg = s.cfg := (rfl)
@[simp] theorem startCandidate_sched : (s.startCandidate).sched = s.sched := (rfl)
@[simp] theorem startCandidate_fresh : (s.startCandidate).fresh = s.fresh := (rfl)

/-! `State.takeCommand`. -/

@[simp] theorem takeCommand_phase (b : Byte) : (s.takeCommand b).phase = .len := (rfl)
@[simp] theorem takeCommand_cmd (b : Byte) : (s.takeCommand b).cmd = b := (rfl)
@[simp] theorem takeCommand_len (b : Byte) : (s.takeCommand b).len = s.len := (rfl)
@[simp] theorem takeCommand_idx (b : Byte) : (s.takeCommand b).idx = s.idx := (rfl)
@[simp] theorem takeCommand_acc (b : Byte) : (s.takeCommand b).acc = s.acc ^^^ b := (rfl)
@[simp] theorem takeCommand_buf (b : Byte) : (s.takeCommand b).buf = s.buf := (rfl)
@[simp] theorem takeCommand_err (b : Byte) : (s.takeCommand b).err = s.err := (rfl)
@[simp] theorem takeCommand_rch (b : Byte) : (s.takeCommand b).rch = s.rch := (rfl)
@[simp] theorem takeCommand_ech (b : Byte) : (s.takeCommand b).ech = s.ech := (rfl)
@[simp] theorem takeCommand_chkerrCnt (b : Byte) : (s.takeCommand b).chkerrCnt = s.chkerrCnt := (rfl)
@[simp] theorem takeCommand_unknownCnt (b : Byte) : (s.takeCommand b).unknownCnt = s.unknownCnt := (rfl)
@[simp] theorem takeCommand_resyncCnt (b : Byte) : (s.takeCommand b).resyncCnt = s.resyncCnt := (rfl)
@[simp] theorem takeCommand_rx (b : Byte) : (s.takeCommand b).rx = s.rx := (rfl)
@[simp] theorem takeCommand_tx (b : Byte) : (s.takeCommand b).tx = s.tx := (rfl)
@[simp] theorem takeCommand_inflight (b : Byte) : (s.takeCommand b).inflight = s.inflight := (rfl)
@[simp] theorem takeCommand_enc (b : Byte) : (s.takeCommand b).enc = s.enc := (rfl)
@[simp] theorem takeCommand_encCap (b : Byte) : (s.takeCommand b).encCap = s.encCap := (rfl)
@[simp] theorem takeCommand_txPort (b : Byte) : (s.takeCommand b).txPort = s.txPort := (rfl)
@[simp] theorem takeCommand_results (b : Byte) : (s.takeCommand b).results = s.results := (rfl)
@[simp] theorem takeCommand_cfg (b : Byte) : (s.takeCommand b).cfg = s.cfg := (rfl)
@[simp] theorem takeCommand_sched (b : Byte) : (s.takeCommand b).sched = s.sched := (rfl)
@[simp] theorem takeCommand_fresh (b : Byte) : (s.takeCommand b).fresh = s.fresh := (rfl)

/-! `State.takeLength`. -/

@[simp] theorem takeLength_phase (b : Byte) : (s.takeLength b).phase = if b = 0#8 then .chk else .payload := (rfl)
@[simp] theorem takeLength_cmd (b : Byte) : (s.takeLength b).cmd = s.cmd := (rfl)
@[simp] theorem takeLength_len (b : Byte) : (s.takeLength b).len = b := (rfl)
@[simp] theorem takeLength_idx (b : Byte) : (s.takeLength b).idx = 0#8 := (rfl)
@[simp] theorem takeLength_acc (b : Byte) : (s.takeLength b).acc = s.acc ^^^ b := (rfl)
@[simp] theorem takeLength_buf (b : Byte) : (s.takeLength b).buf = s.buf := (rfl)
@[simp] theorem takeLength_err (b : Byte) : (s.takeLength b).err = s.err := (rfl)
@[simp] theorem takeLength_rch (b : Byte) : (s.takeLength b).rch = s.rch := (rfl)
@[simp] theorem takeLength_ech (b : Byte) : (s.takeLength b).ech = s.ech := (rfl)
@[simp] theorem takeLength_chkerrCnt (b : Byte) : (s.takeLength b).chkerrCnt = s.chkerrCnt := (rfl)
@[simp] theorem takeLength_unknownCnt (b : Byte) : (s.takeLength b).unknownCnt = s.unknownCnt := (rfl)
@[simp] theorem takeLength_resyncCnt (b : Byte) : (s.takeLength b).resyncCnt = s.resyncCnt := (rfl)
@[simp] theorem takeLength_rx (b : Byte) : (s.takeLength b).rx = s.rx := (rfl)
@[simp] theorem takeLength_tx (b : Byte) : (s.takeLength b).tx = s.tx := (rfl)
@[simp] theorem takeLength_inflight (b : Byte) : (s.takeLength b).inflight = s.inflight := (rfl)
@[simp] theorem takeLength_enc (b : Byte) : (s.takeLength b).enc = s.enc := (rfl)
@[simp] theorem takeLength_encCap (b : Byte) : (s.takeLength b).encCap = s.encCap := (rfl)
@[simp] theorem takeLength_txPort (b : Byte) : (s.takeLength b).txPort = s.txPort := (rfl)
@[simp] theorem takeLength_results (b : Byte) : (s.takeLength b).results = s.results := (rfl)
@[simp] theorem takeLength_cfg (b : Byte) : (s.takeLength b).cfg = s.cfg := (rfl)
@[simp] theorem takeLength_sched (b : Byte) : (s.takeLength b).sched = s.sched := (rfl)
@[simp] theorem takeLength_fresh (b : Byte) : (s.takeLength b).fresh = s.fresh := (rfl)

/-! `State.discardCandidate`. -/

@[simp] theorem discardCandidate_phase : (s.discardCandidate).phase = .seek := (rfl)
@[simp] theorem discardCandidate_cmd : (s.discardCandidate).cmd = s.cmd := (rfl)
@[simp] theorem discardCandidate_len : (s.discardCandidate).len = s.len := (rfl)
@[simp] theorem discardCandidate_idx : (s.discardCandidate).idx = s.idx := (rfl)
@[simp] theorem discardCandidate_acc : (s.discardCandidate).acc = s.acc := (rfl)
@[simp] theorem discardCandidate_buf : (s.discardCandidate).buf = s.buf := (rfl)
@[simp] theorem discardCandidate_err : (s.discardCandidate).err = s.err := (rfl)
@[simp] theorem discardCandidate_rch : (s.discardCandidate).rch = s.rch := (rfl)
@[simp] theorem discardCandidate_ech : (s.discardCandidate).ech = s.ech := (rfl)
@[simp] theorem discardCandidate_chkerrCnt : (s.discardCandidate).chkerrCnt = satInc s.chkerrCnt := (rfl)
@[simp] theorem discardCandidate_unknownCnt : (s.discardCandidate).unknownCnt = s.unknownCnt := (rfl)
@[simp] theorem discardCandidate_resyncCnt : (s.discardCandidate).resyncCnt = s.resyncCnt := (rfl)
@[simp] theorem discardCandidate_rx : (s.discardCandidate).rx = s.rx := (rfl)
@[simp] theorem discardCandidate_tx : (s.discardCandidate).tx = s.tx := (rfl)
@[simp] theorem discardCandidate_inflight : (s.discardCandidate).inflight = s.inflight := (rfl)
@[simp] theorem discardCandidate_enc : (s.discardCandidate).enc = s.enc := (rfl)
@[simp] theorem discardCandidate_encCap : (s.discardCandidate).encCap = s.encCap := (rfl)
@[simp] theorem discardCandidate_txPort : (s.discardCandidate).txPort = s.txPort := (rfl)
@[simp] theorem discardCandidate_results : (s.discardCandidate).results = s.results := (rfl)
@[simp] theorem discardCandidate_cfg : (s.discardCandidate).cfg = s.cfg := (rfl)
@[simp] theorem discardCandidate_sched : (s.discardCandidate).sched = s.sched := (rfl)
@[simp] theorem discardCandidate_fresh : (s.discardCandidate).fresh = s.fresh := (rfl)

/-! `State.halt`. -/

@[simp] theorem halt_phase (e : Err) : (s.halt e).phase = .halt := (rfl)
@[simp] theorem halt_cmd (e : Err) : (s.halt e).cmd = s.cmd := (rfl)
@[simp] theorem halt_len (e : Err) : (s.halt e).len = s.len := (rfl)
@[simp] theorem halt_idx (e : Err) : (s.halt e).idx = s.idx := (rfl)
@[simp] theorem halt_acc (e : Err) : (s.halt e).acc = s.acc := (rfl)
@[simp] theorem halt_buf (e : Err) : (s.halt e).buf = s.buf := (rfl)
@[simp] theorem halt_err (e : Err) : (s.halt e).err = e := (rfl)
@[simp] theorem halt_rch (e : Err) : (s.halt e).rch = s.rch := (rfl)
@[simp] theorem halt_ech (e : Err) : (s.halt e).ech = s.ech := (rfl)
@[simp] theorem halt_chkerrCnt (e : Err) : (s.halt e).chkerrCnt = s.chkerrCnt := (rfl)
@[simp] theorem halt_unknownCnt (e : Err) : (s.halt e).unknownCnt = s.unknownCnt := (rfl)
@[simp] theorem halt_resyncCnt (e : Err) : (s.halt e).resyncCnt = s.resyncCnt := (rfl)
@[simp] theorem halt_rx (e : Err) : (s.halt e).rx = s.rx := (rfl)
@[simp] theorem halt_tx (e : Err) : (s.halt e).tx = s.tx := (rfl)
@[simp] theorem halt_inflight (e : Err) : (s.halt e).inflight = s.inflight := (rfl)
@[simp] theorem halt_enc (e : Err) : (s.halt e).enc = s.enc := (rfl)
@[simp] theorem halt_encCap (e : Err) : (s.halt e).encCap = s.encCap := (rfl)
@[simp] theorem halt_txPort (e : Err) : (s.halt e).txPort = s.txPort := (rfl)
@[simp] theorem halt_results (e : Err) : (s.halt e).results = s.results := (rfl)
@[simp] theorem halt_cfg (e : Err) : (s.halt e).cfg = s.cfg := (rfl)
@[simp] theorem halt_sched (e : Err) : (s.halt e).sched = s.sched := (rfl)
@[simp] theorem halt_fresh (e : Err) : (s.halt e).fresh = s.fresh := (rfl)

/-! `State.answer`. -/

@[simp] theorem answer_phase (r : HostResult) : (s.answer r).phase = s.phase := (rfl)
@[simp] theorem answer_cmd (r : HostResult) : (s.answer r).cmd = s.cmd := (rfl)
@[simp] theorem answer_len (r : HostResult) : (s.answer r).len = s.len := (rfl)
@[simp] theorem answer_idx (r : HostResult) : (s.answer r).idx = s.idx := (rfl)
@[simp] theorem answer_acc (r : HostResult) : (s.answer r).acc = s.acc := (rfl)
@[simp] theorem answer_buf (r : HostResult) : (s.answer r).buf = s.buf := (rfl)
@[simp] theorem answer_err (r : HostResult) : (s.answer r).err = s.err := (rfl)
@[simp] theorem answer_rch (r : HostResult) : (s.answer r).rch = s.rch := (rfl)
@[simp] theorem answer_ech (r : HostResult) : (s.answer r).ech = s.ech := (rfl)
@[simp] theorem answer_chkerrCnt (r : HostResult) : (s.answer r).chkerrCnt = s.chkerrCnt := (rfl)
@[simp] theorem answer_unknownCnt (r : HostResult) : (s.answer r).unknownCnt = s.unknownCnt := (rfl)
@[simp] theorem answer_resyncCnt (r : HostResult) : (s.answer r).resyncCnt = s.resyncCnt := (rfl)
@[simp] theorem answer_rx (r : HostResult) : (s.answer r).rx = s.rx := (rfl)
@[simp] theorem answer_tx (r : HostResult) : (s.answer r).tx = s.tx := (rfl)
@[simp] theorem answer_inflight (r : HostResult) : (s.answer r).inflight = s.inflight := (rfl)
@[simp] theorem answer_enc (r : HostResult) : (s.answer r).enc = s.enc := (rfl)
@[simp] theorem answer_encCap (r : HostResult) : (s.answer r).encCap = s.encCap := (rfl)
@[simp] theorem answer_txPort (r : HostResult) : (s.answer r).txPort = s.txPort := (rfl)
@[simp] theorem answer_results (r : HostResult) : (s.answer r).results = s.results ++ [r] := (rfl)
@[simp] theorem answer_cfg (r : HostResult) : (s.answer r).cfg = s.cfg := (rfl)
@[simp] theorem answer_sched (r : HostResult) : (s.answer r).sched = s.sched := (rfl)
@[simp] theorem answer_fresh (r : HostResult) : (s.answer r).fresh = s.fresh := (rfl)

/-! `State.pushResponse`. -/

@[simp] theorem pushResponse_phase (f : Frame Response) : (s.pushResponse f).phase = s.phase := (rfl)
@[simp] theorem pushResponse_cmd (f : Frame Response) : (s.pushResponse f).cmd = s.cmd := (rfl)
@[simp] theorem pushResponse_len (f : Frame Response) : (s.pushResponse f).len = s.len := (rfl)
@[simp] theorem pushResponse_idx (f : Frame Response) : (s.pushResponse f).idx = s.idx := (rfl)
@[simp] theorem pushResponse_acc (f : Frame Response) : (s.pushResponse f).acc = s.acc := (rfl)
@[simp] theorem pushResponse_buf (f : Frame Response) : (s.pushResponse f).buf = s.buf := (rfl)
@[simp] theorem pushResponse_err (f : Frame Response) : (s.pushResponse f).err = s.err := (rfl)
@[simp] theorem pushResponse_rch (f : Frame Response) : (s.pushResponse f).rch = (s.rch.push Config.respDepth f).2 := (rfl)
@[simp] theorem pushResponse_ech (f : Frame Response) : (s.pushResponse f).ech = s.ech := (rfl)
@[simp] theorem pushResponse_chkerrCnt (f : Frame Response) : (s.pushResponse f).chkerrCnt = s.chkerrCnt := (rfl)
@[simp] theorem pushResponse_unknownCnt (f : Frame Response) : (s.pushResponse f).unknownCnt = s.unknownCnt := (rfl)
@[simp] theorem pushResponse_resyncCnt (f : Frame Response) : (s.pushResponse f).resyncCnt = s.resyncCnt := (rfl)
@[simp] theorem pushResponse_rx (f : Frame Response) : (s.pushResponse f).rx = s.rx := (rfl)
@[simp] theorem pushResponse_tx (f : Frame Response) : (s.pushResponse f).tx = s.tx := (rfl)
@[simp] theorem pushResponse_inflight (f : Frame Response) : (s.pushResponse f).inflight = s.inflight := (rfl)
@[simp] theorem pushResponse_enc (f : Frame Response) : (s.pushResponse f).enc = s.enc := (rfl)
@[simp] theorem pushResponse_encCap (f : Frame Response) : (s.pushResponse f).encCap = s.encCap := (rfl)
@[simp] theorem pushResponse_txPort (f : Frame Response) : (s.pushResponse f).txPort = s.txPort := (rfl)
@[simp] theorem pushResponse_results (f : Frame Response) : (s.pushResponse f).results = s.results := (rfl)
@[simp] theorem pushResponse_cfg (f : Frame Response) : (s.pushResponse f).cfg = s.cfg := (rfl)
@[simp] theorem pushResponse_sched (f : Frame Response) : (s.pushResponse f).sched = s.sched := (rfl)
@[simp] theorem pushResponse_fresh (f : Frame Response) : (s.pushResponse f).fresh = s.fresh := (rfl)

/-! `State.pushEvent`. -/

@[simp] theorem pushEvent_phase (f : Frame Event) : (s.pushEvent f).phase = s.phase := (rfl)
@[simp] theorem pushEvent_cmd (f : Frame Event) : (s.pushEvent f).cmd = s.cmd := (rfl)
@[simp] theorem pushEvent_len (f : Frame Event) : (s.pushEvent f).len = s.len := (rfl)
@[simp] theorem pushEvent_idx (f : Frame Event) : (s.pushEvent f).idx = s.idx := (rfl)
@[simp] theorem pushEvent_acc (f : Frame Event) : (s.pushEvent f).acc = s.acc := (rfl)
@[simp] theorem pushEvent_buf (f : Frame Event) : (s.pushEvent f).buf = s.buf := (rfl)
@[simp] theorem pushEvent_err (f : Frame Event) : (s.pushEvent f).err = s.err := (rfl)
@[simp] theorem pushEvent_rch (f : Frame Event) : (s.pushEvent f).rch = s.rch := (rfl)
@[simp] theorem pushEvent_ech (f : Frame Event) : (s.pushEvent f).ech = (s.ech.push Config.evtDepth f).2 := (rfl)
@[simp] theorem pushEvent_chkerrCnt (f : Frame Event) : (s.pushEvent f).chkerrCnt = s.chkerrCnt := (rfl)
@[simp] theorem pushEvent_unknownCnt (f : Frame Event) : (s.pushEvent f).unknownCnt = s.unknownCnt := (rfl)
@[simp] theorem pushEvent_resyncCnt (f : Frame Event) : (s.pushEvent f).resyncCnt = s.resyncCnt := (rfl)
@[simp] theorem pushEvent_rx (f : Frame Event) : (s.pushEvent f).rx = s.rx := (rfl)
@[simp] theorem pushEvent_tx (f : Frame Event) : (s.pushEvent f).tx = s.tx := (rfl)
@[simp] theorem pushEvent_inflight (f : Frame Event) : (s.pushEvent f).inflight = s.inflight := (rfl)
@[simp] theorem pushEvent_enc (f : Frame Event) : (s.pushEvent f).enc = s.enc := (rfl)
@[simp] theorem pushEvent_encCap (f : Frame Event) : (s.pushEvent f).encCap = s.encCap := (rfl)
@[simp] theorem pushEvent_txPort (f : Frame Event) : (s.pushEvent f).txPort = s.txPort := (rfl)
@[simp] theorem pushEvent_results (f : Frame Event) : (s.pushEvent f).results = s.results := (rfl)
@[simp] theorem pushEvent_cfg (f : Frame Event) : (s.pushEvent f).cfg = s.cfg := (rfl)
@[simp] theorem pushEvent_sched (f : Frame Event) : (s.pushEvent f).sched = s.sched := (rfl)
@[simp] theorem pushEvent_fresh (f : Frame Event) : (s.pushEvent f).fresh = s.fresh := (rfl)

/-! `State.taken`. -/

@[simp] theorem taken_phase : (s.taken).phase = s.phase := (rfl)
@[simp] theorem taken_cmd : (s.taken).cmd = s.cmd := (rfl)
@[simp] theorem taken_len : (s.taken).len = s.len := (rfl)
@[simp] theorem taken_idx : (s.taken).idx = s.idx := (rfl)
@[simp] theorem taken_acc : (s.taken).acc = s.acc := (rfl)
@[simp] theorem taken_buf : (s.taken).buf = s.buf := (rfl)
@[simp] theorem taken_err : (s.taken).err = s.err := (rfl)
@[simp] theorem taken_rch : (s.taken).rch = s.rch := (rfl)
@[simp] theorem taken_ech : (s.taken).ech = s.ech := (rfl)
@[simp] theorem taken_chkerrCnt : (s.taken).chkerrCnt = s.chkerrCnt := (rfl)
@[simp] theorem taken_unknownCnt : (s.taken).unknownCnt = s.unknownCnt := (rfl)
@[simp] theorem taken_resyncCnt : (s.taken).resyncCnt = s.resyncCnt := (rfl)
@[simp] theorem taken_rx : (s.taken).rx = s.rx.tail := (rfl)
@[simp] theorem taken_tx : (s.taken).tx = s.tx := (rfl)
@[simp] theorem taken_inflight : (s.taken).inflight = s.inflight := (rfl)
@[simp] theorem taken_enc : (s.taken).enc = s.enc := (rfl)
@[simp] theorem taken_encCap : (s.taken).encCap = s.encCap := (rfl)
@[simp] theorem taken_txPort : (s.taken).txPort = s.txPort := (rfl)
@[simp] theorem taken_results : (s.taken).results = s.results := (rfl)
@[simp] theorem taken_cfg : (s.taken).cfg = s.cfg := (rfl)
@[simp] theorem taken_sched : (s.taken).sched = s.sched.tail := (rfl)
@[simp] theorem taken_fresh : (s.taken).fresh = s.fresh := (rfl)

/-! RESTART, outside HALT and in it. -/

theorem restart_running (h : s.phase ≠ .halt) : s.restart = s := if_neg h

theorem restart_halted (h : s.phase = .halt) :
    s.restart =
      { s with
        err := .none, phase := .seek, idx := 0#8, buf := [], fresh := s.fresh + 3
        cmd := Config.freeByte s.fresh, len := Config.freeByte (s.fresh + 1), acc := Config.freeByte (s.fresh + 2) } :=
  if_pos h

/-! Words. -/

/-- One more than a byte below 255 does not wrap. -/
theorem byte_succ_toNat {b : Byte} (h : b.toNat < 255) : (b + 1#8).toNat = b.toNat + 1 := by
  simp only [BitVec.toNat_add, Config.byteW]
  simp
  omega

/-! The saturating count. -/

theorem le_satInc (c : Count) : c ≤ satInc c := by
  unfold satInc
  split
  · exact BitVec.le_refl c
  · rename_i h
    rw [BitVec.le_def]
    have hc : c.toNat ≠ 2 ^ 32 - 1 := fun e => h (BitVec.eq_of_toNat_eq (by simpa [Config.cntW] using e))
    have := c.isLt
    have h1 : c.toNat + 1 < 2 ^ Config.cntW := by simp only [Config.cntW] at *; omega
    rw [BitVec.toNat_add, BitVec.toNat_one (by decide), Nat.mod_eq_of_lt h1]
    exact Nat.le_succ _

theorem satInc_max : satInc (BitVec.allOnes Config.cntW) = BitVec.allOnes Config.cntW := if_pos rfl

/-! Outcomes. -/

theorem whenRunning_halted {s t : State} (h : s.phase = .halt) : whenRunning s t = .next s := by
  simp [whenRunning, h]

theorem whenRunning_running {s t : State} (h : s.phase ≠ .halt) : whenRunning s t = .next t := by
  simp [whenRunning, h]

end Sys2Proof.Machine
end

