-- ==== Sys2Proof/Laws/Channels.lean ====
section
/-! SUPPORT. What each channel operation can do, said once. -/

namespace Sys2Proof.Machine

variable {K : Type} (c : Channel K)

/-- A push with room on a queue whose consumer is not to be woken (`43_channels.md` R221). -/
theorem Channel.push_room {cap : Nat} (f : Frame K) (h : c.queue.length < cap) (hw : c.queue ≠ [] ∨ c.wait = false) :
    c.push cap f = (.success, { c with queue := c.queue ++ [f] }) := by
  unfold Channel.push
  rw [if_pos h]
  rcases hw with hw | hw <;> simp [hw]

/-- A push that wakes the waiting consumer (`43_channels.md` R226). -/
theorem Channel.push_wake {cap : Nat} (f : Frame K) (h : 0 < cap) (hq : c.queue = []) (hw : c.wait = true) :
    c.push cap f = (.success, { c with queue := [f], wait := false, woken := true }) := by
  unfold Channel.push
  simp [hq, hw, h, Channel.wake]

/-- A push on a full queue drops the new frame (`43_channels.md` R222). -/
theorem Channel.push_full {cap : Nat} (f : Frame K) (h : ¬ c.queue.length < cap) :
    c.push cap f = (.full, { c with dropCnt := satInc c.dropCnt }) := by
  unfold Channel.push
  rw [if_neg h]

/-- Everything a push can do. -/
theorem Channel.push_cases (cap : Nat) (f : Frame K) :
    (c.queue.length < cap ∧ (c.push cap f).2.queue = c.queue ++ [f] ∧ (c.push cap f).2.dropCnt = c.dropCnt ∧
      (c.queue = [] ∧ c.wait = true ∧ (c.push cap f).2.wait = false ∧ (c.push cap f).2.woken = true ∨
        (c.queue ≠ [] ∨ c.wait = false) ∧ (c.push cap f).2.wait = c.wait ∧ (c.push cap f).2.woken = c.woken)) ∨
    (¬ c.queue.length < cap ∧ (c.push cap f).2 = { c with dropCnt := satInc c.dropCnt }) := by
  by_cases h : c.queue.length < cap
  · left
    by_cases hw : c.queue = [] ∧ c.wait = true
    · rw [c.push_wake f (by omega) hw.1 hw.2]
      have : 0 < cap := by omega
      simp [this, hw.1, hw.2]
    · have hw' : c.queue ≠ [] ∨ c.wait = false := by
        by_cases hq : c.queue = []
        · exact .inr (by simpa [hq] using hw)
        · exact .inl hq
      rw [c.push_room f h hw']
      simp [h, hw']
  · exact .inr ⟨h, by rw [c.push_full f h]⟩

/-- A push never touches what the consumer has dequeued. -/
@[simp] theorem Channel.push_out (cap : Nat) (f : Frame K) : (c.push cap f).2.out = c.out := by
  unfold Channel.push
  split
  · dsimp only
    split <;> rfl
  · rfl

/-- Everything `pop` can do. -/
theorem Channel.pop_cases :
    (c.queue = [] ∧ c.pop = (none, c)) ∨
    (∃ f q, c.queue = f :: q ∧ c.pop = (some f, { c with queue := q, out := c.out ++ [f] })) := by
  unfold Channel.pop
  cases h : c.queue with
  | nil => exact .inl ⟨rfl, rfl⟩
  | cons f q => exact .inr ⟨f, q, rfl, rfl⟩

/-- Everything `wait_and_pop` can do. -/
theorem Channel.waitAndPop_cases :
    (c.queue = [] ∧ c.waitAndPop = (none, { c with wait := true, woken := false })) ∨
    (∃ f q, c.queue = f :: q ∧
      c.waitAndPop = (some f, { c with queue := q, woken := false, out := c.out ++ [f] })) := by
  unfold Channel.waitAndPop
  cases h : c.queue with
  | nil => exact .inl ⟨rfl, rfl⟩
  | cons f q => exact .inr ⟨f, q, rfl, rfl⟩

/-- What a push adds to the history of a channel: the frame, or nothing. -/
theorem Channel.push_history (cap : Nat) (f : Frame K) :
    (c.push cap f).2.history = c.history ∨ (c.push cap f).2.history = c.history ++ [f] := by
  rcases c.push_cases cap f with ⟨_, a, _, _⟩ | ⟨_, e⟩
  · exact .inr (by simp [Channel.history, a])
  · exact .inl (by rw [e]; rfl)

/-- `pop` moves the head from the queue to the dequeued frames, so the history is kept. -/
theorem Channel.pop_history : c.pop.2.history = c.history ∧ c.out <+: c.pop.2.out := by
  rcases c.pop_cases with ⟨_, e⟩ | ⟨f, q, hq, e⟩ <;> rw [e]
  · simp
  · simp [Channel.history, hq]

/-- `wait_and_pop` does the same. -/
theorem Channel.waitAndPop_history : c.waitAndPop.2.history = c.history ∧ c.out <+: c.waitAndPop.2.out := by
  rcases c.waitAndPop_cases with ⟨_, e⟩ | ⟨f, q, hq, e⟩ <;> rw [e]
  · simp [Channel.history]
  · simp [Channel.history, hq]

end Sys2Proof.Machine
end

