-- ==== Sys2Proof/Laws/Memory.lean ====
section
/-! SUPPORT. The laws of a byte memory: a read after a write, the canonical form, and blocks of bytes. -/

namespace Sys2Proof.Machine

variable (m : Memory)

@[simp] theorem Memory.read_write_same (a : Nat) (b : Byte) : (m.write a b).read a = some b := by
  induction m with
  | nil => simp [Memory.write, Memory.read]
  | cons c m ih =>
    obtain ⟨x, y⟩ := c
    simp only [Memory.write]
    split
    · simp [Memory.read]
    · split
      · simp [Memory.read]
      · simp_all [Memory.read]

theorem Memory.read_write_other {a a' : Nat} (b : Byte) (h : a' ≠ a) : (m.write a b).read a' = m.read a' := by
  induction m with
  | nil => simp [Memory.write, Memory.read, h]
  | cons c m ih =>
    obtain ⟨x, y⟩ := c
    simp only [Memory.write]
    split
    · simp [Memory.read, h]
    · split
      · subst_vars
        simp [Memory.read, h]
      · simp [Memory.read, ih]

/-- The addresses listed after a write. -/
theorem Memory.mem_write {c : Host.Cell} {a : Nat} {b : Byte} (h : c ∈ m.write a b) : c = (a, b) ∨ c ∈ m := by
  induction m with
  | nil => simpa [Memory.write] using h
  | cons d m ih =>
    obtain ⟨x, y⟩ := d
    simp only [Memory.write] at h
    split at h
    · simpa using h
    · split at h
      · rcases List.mem_cons.1 h with h | h
        · exact .inl h
        · exact .inr (List.mem_cons_of_mem _ h)
      · rcases List.mem_cons.1 h with h | h
        · exact .inr (h ▸ List.mem_cons_self)
        · exact (ih h).imp id (List.mem_cons_of_mem _)

/-- A write keeps the canonical form. -/
theorem Memory.wf_write (a : Nat) (b : Byte) (h : m.wf) : (m.write a b).wf := by
  induction m with
  | nil => simp [Memory.write, Memory.wf]
  | cons d m ih =>
    obtain ⟨x, y⟩ := d
    have hx : ∀ c ∈ m, x < c.1 := by simpa [Memory.wf] using (List.pairwise_cons.1 h).1
    have hm : Memory.wf m := (List.pairwise_cons.1 h).2
    simp only [Memory.write]
    split
    · rename_i hlt
      refine List.pairwise_cons.2 ⟨?_, h⟩
      intro z hz
      simp only [List.map_cons, List.mem_cons, List.mem_map] at hz
      rcases hz with rfl | ⟨c, hc, rfl⟩
      · exact hlt
      · exact hlt.trans (hx c hc)
    · split
      · subst_vars
        exact h
      · refine List.pairwise_cons.2 ⟨?_, ih hm⟩
        intro z hz
        obtain ⟨c, hc, rfl⟩ := List.mem_map.1 hz
        rcases Memory.mem_write m hc with rfl | hc
        · simp only
          omega
        · exact hx c hc

/-- A write below the bound stays below it. -/
theorem Memory.within_write {n a : Nat} (b : Byte) (h : m.within n) (ha : a < n) : (m.write a b).within n := by
  intro c hc
  rcases Memory.mem_write m hc with rfl | hc
  · exact ha
  · exact h c hc

theorem Memory.wf_writeBlock (a : Nat) (bs : List Byte) (h : m.wf) : (m.writeBlock a bs).wf := by
  induction bs generalizing m a with
  | nil => exact h
  | cons b bs ih => exact ih _ _ (m.wf_write a b h)

theorem Memory.within_writeBlock {n a : Nat} (bs : List Byte) (h : m.within n) (hb : a + bs.length ≤ n) :
    (m.writeBlock a bs).within n := by
  induction bs generalizing m a with
  | nil => exact h
  | cons b bs ih =>
    simp only [List.length_cons] at hb
    exact ih _ (m.within_write b h (by omega)) (by omega)

/-- What a byte reads as after a block was written: the block's byte inside it, the old one outside. -/
theorem Memory.read_writeBlock (a : Nat) (bs : List Byte) (x : Nat) :
    (m.writeBlock a bs).read x = if a ≤ x ∧ x < a + bs.length then bs[x - a]? else m.read x := by
  induction bs generalizing m a with
  | nil => simp [Memory.writeBlock]
  | cons b bs ih =>
    simp only [Memory.writeBlock, ih, List.length_cons]
    by_cases h1 : a + 1 ≤ x ∧ x < a + 1 + bs.length
    · have h2 : a ≤ x ∧ x < a + (bs.length + 1) := by omega
      have h3 : x - a = x - (a + 1) + 1 := by omega
      rw [if_pos h1, if_pos h2, h3, List.getElem?_cons_succ]
    · rw [if_neg h1]
      by_cases hx : x = a
      · subst hx
        rw [if_pos (by omega)]
        simp
      · rw [if_neg (by omega), m.read_write_other b hx]

/-- Reading a block of `n + 1` bytes from its last byte. -/
theorem Memory.readBlock_succ (a n : Nat) :
    m.readBlock a (n + 1) =
      (m.readBlock a n).bind (fun bs => (m.read (a + n)).map (fun b => bs ++ [b])) := by
  induction n generalizing a with
  | zero => simp only [Memory.readBlock, Nat.add_zero]; cases m.read a <;> simp
  | succ n ih =>
    rw [Memory.readBlock, ih (a + 1)]
    conv_rhs => rw [Memory.readBlock]
    have : a + 1 + n = a + (n + 1) := by omega
    rw [this]
    cases m.read a <;> cases m.readBlock (a + 1) n <;> cases m.read (a + (n + 1)) <;> simp

theorem Memory.readBlock_length {m : Memory} {a n : Nat} {bs : List Byte} (h : m.readBlock a n = some bs) : bs.length = n := by
  induction n generalizing a bs with
  | zero => simp_all [Memory.readBlock]
  | succ n ih =>
    rw [Memory.readBlock] at h
    split at h
    · rename_i b bs' _ h2
      obtain rfl := Option.some.inj h
      simp [ih h2]
    · simp at h

/-- A block is read from the bytes it covers alone. -/
theorem Memory.readBlock_congr {m m' : Memory} {a n : Nat} (h : ∀ x, a ≤ x → x < a + n → m'.read x = m.read x) :
    m'.readBlock a n = m.readBlock a n := by
  induction n generalizing a with
  | zero => rfl
  | succ n ih =>
    rw [Memory.readBlock, Memory.readBlock, h a (by omega) (by omega), ih (fun x h1 h2 => h x (by omega) (by omega))]

/-- A block that was just written reads back. -/
theorem Memory.readBlock_writeBlock (a : Nat) (bs : List Byte) : (m.writeBlock a bs).readBlock a bs.length = some bs := by
  induction bs generalizing m a with
  | nil => rfl
  | cons b bs ih =>
    have hb : (m.writeBlock a (b :: bs)).read a = some b := by
      rw [m.read_writeBlock, if_pos (by simp)]
      simp
    rw [List.length_cons, Memory.readBlock, hb, Memory.writeBlock, ih]

/-- One more byte behind a block. -/
theorem Memory.readBlock_write_next {n : Nat} {bs : List Byte} (b : Byte) (h : m.readBlock 0 n = some bs) :
    (m.write n b).readBlock 0 (n + 1) = some (bs ++ [b]) := by
  have hc : (m.write n b).readBlock 0 n = m.readBlock 0 n :=
    Memory.readBlock_congr (fun x _ hx => m.read_write_other b (by omega))
  rw [Memory.readBlock_succ, hc, h]
  simp

end Sys2Proof.Machine
end

