-- ==== Sys2Proof/Laws/Codec.lean ====
section
/-! SUPPORT. The small lemmas of the codec: checksum over appended bytes, what a frame looks like, what each decoder function
can answer, and the two views of an instruction. -/

namespace Sys2Proof

/-! Instructions and their shapes. -/

@[simp] theorem Form.toInstr_form (i : Instr) : i.form.toInstr = i := by cases i <;> rfl

@[simp] theorem Instr.ofRequest_form (k : Request) (p : List Byte) : (Instr.ofRequest k p).form = .request k p := by
  cases k <;> rfl

@[simp] theorem Instr.ofResponse_form (k : Response) (d : List Byte) : (Instr.ofResponse k d).form = .response k d := by
  cases k <;> rfl

@[simp] theorem Instr.ofEvent_form (k : Event) (d : List Byte) : (Instr.ofEvent k d).form = .event k d := by
  cases k <;> rfl

/-- Two instructions of one shape are one instruction. -/
theorem Instr.form_injective : Function.Injective Instr.form := fun i j h => by
  rw [← Form.toInstr_form i, h, Form.toInstr_form]

theorem Request.mem_all (k : Request) : k ∈ Request.all := by cases k <;> decide

theorem Response.mem_all (k : Response) : k ∈ Response.all := by cases k <;> decide

theorem Event.mem_all (k : Event) : k ∈ Event.all := by cases k <;> decide

/-! Checksum and frame. -/

@[simp] theorem checksum_nil : checksum [] = 0#8 := rfl

@[simp] theorem checksum_cons (b : Byte) (s : List Byte) : checksum (b :: s) = b ^^^ checksum s := rfl

theorem checksum_append (s t : List Byte) : checksum (s ++ t) = checksum s ^^^ checksum t := by
  induction s with
  | nil => simp
  | cons b s ih => simp [ih, BitVec.xor_assoc]

@[simp] theorem frameBody_length (c : Byte) (p : List Byte) : (frameBody c p).length = p.length + 3 := by
  simp [frameBody]

@[simp] theorem frame_length (c : Byte) (p : List Byte) : (frame c p).length = p.length + 4 := by
  simp [frame]

/-- LENGTH of a payload within the bound, read back as a number. -/
theorem length_byte {p : List Byte} (h : PayloadFits p) : (BitVec.ofNat 8 p.length).toNat = p.length := by
  have : p.length ≤ 224 := h
  rw [BitVec.toNat_ofNat]
  exact Nat.mod_eq_of_lt (by omega)

/-! The frame splitter. -/

/-- A whole frame at the head of a stream is split off. -/
theorem splitFrame_frame (c : Byte) {p : List Byte} (rest : List Byte) (h : PayloadFits p) :
    splitFrame (frame c p ++ rest) = .ok (c, p, rest) := by
  have hl := length_byte h
  have h224 : ¬ Config.maxPayloadLen < p.length := Nat.not_lt.2 h
  simp [frame, frameBody, splitFrame, hl, h224]

/-- A frame with any other last byte is refused for its checksum. -/
theorem splitFrame_bad_checksum (c k : Byte) {p : List Byte} (rest : List Byte) (h : PayloadFits p)
    (hk : k ≠ checksum (frameBody c p)) : splitFrame (frameBody c p ++ k :: rest) = .error .checksum := by
  have hl := length_byte h
  have h224 : ¬ Config.maxPayloadLen < p.length := Nat.not_lt.2 h
  simp [frameBody, splitFrame, hl, h224] at hk ⊢
  exact fun e => hk (by simpa using e)

/-- What the splitter answers with is a frame at the head of the stream. -/
theorem splitFrame_ok {w : List Byte} {c : Byte} {p rest : List Byte} (h : splitFrame w = .ok (c, p, rest)) :
    PayloadFits p ∧ w = frame c p ++ rest := by
  unfold splitFrame at h
  split at h
  · rename_i s c' l body
    split at h
    · simp at h
    · rename_i hs
      split at h
      · simp at h
      · rename_i h224
        split at h
        · simp at h
        · rename_i k after hd
          split at h
          · rename_i hk
            have hlt : l.toNat < body.length := by
              by_contra hcon
              have : body.drop l.toNat = [] := List.drop_eq_nil_of_le (by omega)
              rw [this] at hd
              simp at hd
            have hlen : (body.take l.toNat).length = l.toNat := by simp; omega
            obtain ⟨rfl, rfl, rfl⟩ : c' = c ∧ body.take l.toNat = p ∧ after = rest := by simpa using h
            have hbody : body = body.take l.toNat ++ k :: after := by rw [← hd, List.take_append_drop]
            have hl : BitVec.ofNat 8 (body.take l.toNat).length = l := by rw [hlen]; simp
            have hs' : s = Config.startByte := by simpa using hs
            refine ⟨by simpa [PayloadFits, hlen] using h224, ?_⟩
            rw [frame, frameBody, hl, hs']
            rw [hs'] at hk
            conv_lhs => rw [hbody]
            simp [hk]
          · simp at h
  · simp at h

/-- The only way to the illegal-length answer. -/
theorem splitFrame_payloadLength {w : List Byte} (h : splitFrame w = .error .payloadLength) :
    ∃ c l rest, w = Config.startByte :: c :: l :: rest ∧ Config.maxPayloadLen < l.toNat := by
  unfold splitFrame at h
  split at h
  · rename_i s c l rest
    split at h
    · simp at h
    · rename_i hs
      split at h
      · rename_i hl
        exact ⟨c, l, rest, by simpa using hs, hl⟩
      · split at h
        · simp at h
        · split at h <;> simp at h
  · simp at h

/-- A header with LENGTH above 224. -/
theorem splitFrame_illegal (c : Byte) {l : Byte} (rest : List Byte) (h : Config.maxPayloadLen < l.toNat) :
    splitFrame (Config.startByte :: c :: l :: rest) = .error .payloadLength := by
  simp [splitFrame, h]

/-! Classification: what each answer means. -/

theorem classify_response {cfg : Config} {c : Byte} {k : Response} (h : classify cfg c = .response k) :
    cfg.rsp k = c := by
  unfold classify at h
  split at h
  · rename_i k' hf
    obtain rfl : k' = k := by simpa using h
    simpa using List.find?_some hf
  · split at h <;> simp at h

theorem classify_event {cfg : Config} {c : Byte} {k : Event} (h : classify cfg c = .event k) :
    cfg.evt k = some c := by
  unfold classify at h
  split at h
  · simp at h
  · split at h
    · rename_i k' hf
      obtain rfl : k' = k := by simpa using h
      simpa using List.find?_some hf
    · simp at h

theorem classify_unknown {cfg : Config} {c : Byte} (h : classify cfg c = .unknown) : c ∉ cfg.rxCodes := by
  unfold classify at h
  split at h
  · simp at h
  · rename_i hr
    split at h
    · simp at h
    · rename_i he
      simp only [Config.rxCodes, List.mem_append, List.mem_map, List.mem_filterMap, not_or]
      constructor
      · rintro ⟨k, hk, rfl⟩
        simpa using List.find?_eq_none.1 hr k hk
      · rintro ⟨k, hk, hc⟩
        exact absurd hc (by simpa using List.find?_eq_none.1 he k hk)

/-- The request lookup answers a variant with that code. -/
theorem requestOf_some {cfg : Config} {c : Byte} {k : Request} (h : requestOf cfg c = some k) : cfg.req k = c := by
  simpa using List.find?_some h

/-- What an accepted frame becomes, by its classification. -/
theorem acceptedInstr_form (cfg : Config) (c : Byte) (d : List Byte) :
    (∃ k, cfg.rsp k = c ∧ classify cfg c = .response k ∧ acceptedInstr cfg c d = .ofResponse k d) ∨
    (∃ k, cfg.evt k = some c ∧ classify cfg c = .event k ∧ acceptedInstr cfg c d = .ofEvent k d) ∨
    (c ∉ cfg.rxCodes ∧ classify cfg c = .unknown ∧ acceptedInstr cfg c d = .rxUnknownId c d) := by
  unfold acceptedInstr
  cases h : classify cfg c with
  | response k => exact .inl ⟨k, classify_response h, rfl, rfl⟩
  | event k => exact .inr (.inl ⟨k, classify_event h, rfl, rfl⟩)
  | unknown => exact .inr (.inr ⟨classify_unknown h, rfl, rfl⟩)

end Sys2Proof
end

