-- ==== Sys2Proof/Laws/Exec.lean ====
section
/-! SUPPORT. What the meanings can do: each family is one shared operation, and each shared operation has one lemma that says
everything it can answer. -/

namespace Sys2Proof.Machine

/-! Each family's instructions by their variant. -/

theorem exec_ofRequest (k : Request) (p : List Byte) (s : State) : exec (.ofRequest k p) s = transmit k p s := by
  cases k <;> rfl

theorem exec_ofResponse (k : Response) (d : List Byte) (s : State) :
    exec (.ofResponse k d) s = routeResponse k d s := by
  cases k <;> rfl

theorem exec_ofEvent (k : Event) (d : List Byte) (s : State) : exec (.ofEvent k d) s = routeEvent k d s := by
  cases k <;> rfl

/-- The meaning of an instruction, by its shape. -/
theorem exec_form (i : Instr) (s : State) :
    exec i s =
      match i.form with
      | .request k p => transmit k p s
      | .response k d => routeResponse k d s
      | .event k d => routeEvent k d s
      | .resync _ => whenRunning s { s with resyncCnt := satInc s.resyncCnt }
      | .illegalLength _ _ => whenRunning s (s.halt .payloadLength)
      | .unknownId _ _ => routeUnknown s := by
  cases i <;> rfl

/-! The transmit side. -/

/-- Everything `encode` can answer (`40_encode.md` R122 to R124). -/
theorem encodeInto_cases (k : Request) (p : List Byte) (s : State) :
    (Config.maxPayloadLen < p.length ∧ s.encodeInto k p = .error .payloadTooLong) ∨
    (PayloadFits p ∧ s.encCap < 4 + p.length ∧ s.encodeInto k p = .error .bufferTooShort) ∨
    (PayloadFits p ∧ 4 + p.length ≤ s.encCap ∧
      s.encodeInto k p = .ok (4 + p.length, { s with enc := s.enc.writeBlock 0 (frame (s.cfg.req k) p) })) := by
  unfold State.encodeInto
  by_cases h1 : Config.maxPayloadLen < p.length
  · exact .inl ⟨h1, by rw [if_pos h1]⟩
  · have h1' : PayloadFits p := Nat.not_lt.1 h1
    by_cases h2 : s.encCap < 4 + p.length
    · exact .inr (.inl ⟨h1', h2, by simp [h1, h2, Config.frameOverhead]⟩)
    · exact .inr (.inr ⟨h1', Nat.not_lt.1 h2, by simp [h1, h2, Config.frameOverhead]⟩)

/-- What ENC holds after a frame was encoded into it: the frame from address 0, and beyond it what it held before
(`20_memory.md` R64). -/
theorem Memory.read_frame (m : Memory) (c : Byte) (p : List Byte) :
    (∀ a, a < 4 + p.length → (m.writeBlock 0 (frame c p)).read a = (frame c p)[a]?) ∧
    (∀ a, 4 + p.length ≤ a → (m.writeBlock 0 (frame c p)).read a = m.read a) := by
  constructor <;> intro a h
  · rw [Memory.read_writeBlock, if_pos (by simp; omega)]
    simp
  · rw [Memory.read_writeBlock, if_neg (by simp; omega)]

/-- Everything a Request's meaning can answer. -/
theorem transmit_cases (k : Request) (p : List Byte) (s : State) :
    (Config.maxPayloadLen < p.length ∧ transmit k p s = .fault (.encodeContract .payloadTooLong)) ∨
    (PayloadFits p ∧ s.encCap < 4 + p.length ∧ transmit k p s = .fault (.encodeContract .bufferTooShort)) ∨
    (PayloadFits p ∧ 4 + p.length ≤ s.encCap ∧ s.txPort = .accepts ∧
      transmit k p s =
        .next { s with
          enc := s.enc.writeBlock 0 (frame (s.cfg.req k) p), tx := s.tx ++ frame (s.cfg.req k) p }) ∨
    (PayloadFits p ∧ 4 + p.length ≤ s.encCap ∧ ∃ n e, s.txPort = .fails n e ∧
      transmit k p s =
        .next { s with
          enc := s.enc.writeBlock 0 (frame (s.cfg.req k) p), tx := s.tx ++ (frame (s.cfg.req k) p).take n
          results := s.results ++ [.ioError e] }) := by
  rcases encodeInto_cases k p s with ⟨h, e⟩ | ⟨h, h', e⟩ | ⟨h, h', e⟩
  · exact .inl ⟨h, by simp [transmit, e]⟩
  · exact .inr (.inl ⟨h, h', by simp [transmit, e]⟩)
  · cases hp : s.txPort with
    | accepts => exact .inr (.inr (.inl ⟨h, h', rfl, by simp [transmit, e, State.txWrite, hp]⟩))
    | fails n er => exact .inr (.inr (.inr ⟨h, h', n, er, rfl, by simp [transmit, e, State.txWrite, hp, State.answer]⟩))

/-! The receive side. -/

/-- A Response's meaning in a running machine. -/
theorem routeResponse_running (k : Response) (d : List Byte) {s : State} (h : s.phase ≠ .halt) :
    routeResponse k d s =
      .next { s with rch := (s.rch.push Config.respDepth { command := k, data := d }).2, phase := .seek } :=
  whenRunning_running h

/-- An Event's meaning in a running machine. -/
theorem routeEvent_running (k : Event) (d : List Byte) {s : State} (h : s.phase ≠ .halt) :
    routeEvent k d s =
      .next { s with ech := (s.ech.push Config.evtDepth { command := k, data := d }).2, phase := .seek } :=
  whenRunning_running h

/-- The discard path in a running machine. -/
theorem routeUnknown_running {s : State} (h : s.phase ≠ .halt) :
    routeUnknown s = .next { s with unknownCnt := satInc s.unknownCnt, phase := .seek } :=
  whenRunning_running h

/-- Everything an accepted frame can do in a running machine, whatever its classification. -/
theorem exec_accepted_cases (c : Byte) (d : List Byte) {s : State} (h : s.phase ≠ .halt) :
    (∃ k, s.cfg.rsp k = c ∧ exec (acceptedInstr s.cfg c d) s =
      .next { s with rch := (s.rch.push Config.respDepth { command := k, data := d }).2, phase := .seek }) ∨
    (∃ k, s.cfg.evt k = some c ∧ exec (acceptedInstr s.cfg c d) s =
      .next { s with ech := (s.ech.push Config.evtDepth { command := k, data := d }).2, phase := .seek }) ∨
    (c ∉ s.cfg.rxCodes ∧ exec (acceptedInstr s.cfg c d) s =
      .next { s with unknownCnt := satInc s.unknownCnt, phase := .seek }) := by
  rcases acceptedInstr_form s.cfg c d with ⟨k, hk, -, e⟩ | ⟨k, hk, -, e⟩ | ⟨hk, -, e⟩
  · exact .inl ⟨k, hk, by rw [e, exec_ofResponse, routeResponse_running k d h]⟩
  · exact .inr (.inl ⟨k, hk, by rw [e, exec_ofEvent, routeEvent_running k d h]⟩)
  · exact .inr (.inr ⟨hk, by rw [e]; exact routeUnknown_running h⟩)

end Sys2Proof.Machine
end

