-- ==== Sys2Proof/Laws/PerInstr.lean ====
section
/-! SUPPORT. A statement made of every instruction as syntax: the shape of its encoding. -/

namespace Sys2Proof.Laws.FrameShape

/-- The encoding of an instruction that stands for a whole frame begins with START, is `4 + LENGTH` bytes long and has the
exclusive-or zero (`30_encoding.md` R90, R92); a byte class encodes to its one or three bytes. -/
def Statement (i : Instr) : Prop :=
  ∀ (cfg : Config) (w : List Byte), encode cfg i = some w →
    match i.form with
    | .request _ p | .response _ p | .event _ p | .unknownId _ p =>
      w.head? = some Config.startByte ∧ w.length = Config.frameOverhead + p.length ∧ checksum w = 0#8
    | .resync b => w = [b]
    | .illegalLength c l => w = [Config.startByte, c, l]

/-- A frame has that shape. -/
theorem frame_shape (c : Byte) (p : List Byte) :
    (frame c p).head? = some Config.startByte ∧ (frame c p).length = Config.frameOverhead + p.length ∧
      checksum (frame c p) = 0#8 := by
  refine ⟨rfl, by simp [Config.frameOverhead]; omega, ?_⟩
  rw [frame, checksum_append]
  simp

/-- Whatever its shape, an instruction's encoding has it. -/
theorem of_form (i : Instr) : Statement i := by
  intro cfg w h
  unfold encode at h
  cases hf : i.form with
  | request k p =>
    obtain rfl : frame (cfg.req k) p = w := by simpa [hf, Form.encode] using h
    exact frame_shape _ p
  | response k p =>
    obtain rfl : frame (cfg.rsp k) p = w := by simpa [hf, Form.encode] using h
    exact frame_shape _ p
  | event k p =>
    obtain ⟨c, -, rfl⟩ : ∃ c, cfg.evt k = some c ∧ frame c p = w := by simpa [hf, Form.encode] using h
    exact frame_shape _ p
  | unknownId c p =>
    obtain rfl : frame c p = w := by simpa [hf, Form.encode] using h
    exact frame_shape _ p
  | resync b => simpa [hf, Form.encode] using h.symm
  | illegalLength c l => simpa [hf, Form.encode] using h.symm

theorem reqSendData (p : List Byte) : Statement (.reqSendData p) := of_form _
theorem reqSendDataEx (p : List Byte) : Statement (.reqSendDataEx p) := of_form _
theorem reqSetMode (p : List Byte) : Statement (.reqSetMode p) := of_form _
theorem reqReset (p : List Byte) : Statement (.reqReset p) := of_form _
theorem reqSetChannel (p : List Byte) : Statement (.reqSetChannel p) := of_form _
theorem reqSetDestinationNetworkId (p : List Byte) : Statement (.reqSetDestinationNetworkId p) := of_form _
theorem reqSetDestinationAddress (p : List Byte) : Statement (.reqSetDestinationAddress p) := of_form _
theorem reqSetUserSetting (p : List Byte) : Statement (.reqSetUserSetting p) := of_form _
theorem reqGetUserSetting (p : List Byte) : Statement (.reqGetUserSetting p) := of_form _
theorem reqRssi (p : List Byte) : Statement (.reqRssi p) := of_form _
theorem reqShutdown (p : List Byte) : Statement (.reqShutdown p) := of_form _
theorem reqStandby (p : List Byte) : Statement (.reqStandby p) := of_form _
theorem reqTransmitPower (p : List Byte) : Statement (.reqTransmitPower p) := of_form _
theorem reqFactoryReset (p : List Byte) : Statement (.reqFactoryReset p) := of_form _
theorem rspSendData (d : List Byte) : Statement (.rspSendData d) := of_form _
theorem rspSetMode (d : List Byte) : Statement (.rspSetMode d) := of_form _
theorem rspReset (d : List Byte) : Statement (.rspReset d) := of_form _
theorem rspSetChannel (d : List Byte) : Statement (.rspSetChannel d) := of_form _
theorem rspSetDestinationNetworkId (d : List Byte) : Statement (.rspSetDestinationNetworkId d) := of_form _
theorem rspSetDestinationAddress (d : List Byte) : Statement (.rspSetDestinationAddress d) := of_form _
theorem rspSetUserSetting (d : List Byte) : Statement (.rspSetUserSetting d) := of_form _
theorem rspGetUserSetting (d : List Byte) : Statement (.rspGetUserSetting d) := of_form _
theorem rspRssi (d : List Byte) : Statement (.rspRssi d) := of_form _
theorem rspShutdown (d : List Byte) : Statement (.rspShutdown d) := of_form _
theorem rspStandby (d : List Byte) : Statement (.rspStandby d) := of_form _
theorem rspTransmitPower (d : List Byte) : Statement (.rspTransmitPower d) := of_form _
theorem rspFactoryReset (d : List Byte) : Statement (.rspFactoryReset d) := of_form _
theorem evtDataRepeat (d : List Byte) : Statement (.evtDataRepeat d) := of_form _
theorem evtDataReceived (d : List Byte) : Statement (.evtDataReceived d) := of_form _
theorem evtReset (d : List Byte) : Statement (.evtReset d) := of_form _
theorem evtWakeup (d : List Byte) : Statement (.evtWakeup d) := of_form _
theorem evtPacketTransmit (d : List Byte) : Statement (.evtPacketTransmit d) := of_form _
theorem rxResyncByte (b : Byte) : Statement (.rxResyncByte b) := of_form _
theorem rxIllegalLength (c l : Byte) : Statement (.rxIllegalLength c l) := of_form _
theorem rxUnknownId (c : Byte) (d : List Byte) : Statement (.rxUnknownId c d) := of_form _

end Sys2Proof.Laws.FrameShape
end

