-- ==== Sys2Proof/Laws/Step.lean ====
section
/-! SUPPORT. What a step can be: the ingress agent's turn on a symbol, a turn without one, or a move of another agent; and
everything each agent's turn can answer. -/

namespace Sys2Proof.Machine

variable {s : State}

/-- A step whose schedule names a move of another agent. -/
theorem step_cons {m : Move} {ms : List Move} (h : s.sched = m :: ms) :
    step s = runMove m { s with sched := ms } := by
  unfold step scheduledMove
  rw [h]

/-- The ingress agent's turn, whether the schedule names it or is empty. -/
theorem step_ingress (h : s.ingressNext) : step s = ingressTurn { s with sched := s.sched.tail } := by
  unfold step scheduledMove
  cases hs : s.sched with
  | nil =>
    have : { s with sched := [] } = s := by cases s; simp_all
    simp only [List.tail_nil, this]
  | cons m ms =>
    obtain rfl : m = .ingress := by simpa [State.ingressNext, hs] using h
    rfl

/-- An enabled ingress agent takes one symbol (`41_ingress.md` R150). -/
theorem step_takes {sym : Symbol} (h : s.Takes sym) : step s = ingressStep sym s.taken := by
  obtain ⟨h1, h2, h3⟩ := h
  obtain ⟨rest, hr⟩ : ∃ rest, s.rx = sym :: rest := by
    cases hx : s.rx with
    | nil => simp [hx] at h3
    | cons a r => exact ⟨r, by simpa [hx] using h3⟩
  rw [step_ingress h1]
  simp [ingressTurn, h2, hr, State.taken]

/-- A turn of an ingress agent that is halted or starved does nothing (`41_ingress.md` R160, R161). -/
theorem step_idle (h : s.ingressNext) (h2 : s.phase = .halt ∨ s.rx = []) :
    step s = .next { s with sched := s.sched.tail } := by
  rw [step_ingress h]
  unfold ingressTurn
  rcases h2 with h2 | h2
  · simp [h2]
  · by_cases hp : s.phase = .halt <;> simp [hp, h2]

/-- Every step is one of these: the ingress agent takes a symbol, it has none to take, or another agent moves. -/
theorem step_kinds (s : State) :
    (∃ sym, s.Takes sym ∧ step s = ingressStep sym s.taken) ∨
    (s.ingressNext ∧ (s.phase = .halt ∨ s.rx = []) ∧ step s = .next { s with sched := s.sched.tail }) ∨
    (∃ m ms, s.sched = m :: ms ∧ m ≠ .ingress ∧ step s = runMove m { s with sched := ms }) := by
  by_cases hi : s.ingressNext
  · by_cases hp : s.phase = .halt
    · exact .inr (.inl ⟨hi, .inl hp, step_idle hi (.inl hp)⟩)
    · rcases hx : s.rx.head? with _ | sym
      · have hx' : s.rx = [] := by simpa using hx
        exact .inr (.inl ⟨hi, .inr hx', step_idle hi (.inr hx')⟩)
      · exact .inl ⟨sym, ⟨hi, hp, hx⟩, step_takes ⟨hi, hp, hx⟩⟩
  · cases hs : s.sched with
    | nil => exact absurd (by simp [State.ingressNext, hs]) hi
    | cons m ms =>
      refine .inr (.inr ⟨m, ms, rfl, ?_, step_cons hs⟩)
      rintro rfl
      exact hi (by simp [State.ingressNext, hs])

/-- Everything an ingress step can answer next (`41_ingress.md` R162). -/
theorem ingressStep_next {sym : Symbol} {t : State} (hp : s.phase ≠ .halt) (h : ingressStep sym s = .next t) :
    (∃ e, sym = .ioErr e ∧ t = s.halt (.io e)) ∨
    (∃ b, sym = .byte b ∧
      ((s.phase = .seek ∧ b = Config.startByte ∧ t = s.startCandidate) ∨
       (s.phase = .seek ∧ b ≠ Config.startByte ∧ t = { s with resyncCnt := satInc s.resyncCnt }) ∨
       (s.phase = .cmd ∧ t = s.takeCommand b) ∨
       (s.phase = .len ∧ Config.maxPayloadLen < b.toNat ∧ t = s.halt .payloadLength) ∨
       (s.phase = .len ∧ b.toNat ≤ Config.maxPayloadLen ∧ t = s.takeLength b) ∨
       (s.phase = .payload ∧ s.idx.toNat < Config.maxPayloadLen ∧
        t = { s with
          buf := s.buf.write s.idx.toNat b, acc := s.acc ^^^ b, idx := s.idx + 1#8
          phase := if s.idx + 1#8 = s.len then .chk else .payload }) ∨
       (s.phase = .chk ∧ b ≠ s.acc ∧ t = s.discardCandidate) ∨
       (s.phase = .chk ∧ b = s.acc ∧ ∃ d, s.buf.readBlock 0 s.len.toNat = some d ∧
        exec (acceptedInstr s.cfg s.cmd d) s = .next t))) := by
  cases sym with
  | ioErr e => exact .inl ⟨e, rfl, by simpa [ingressStep] using h.symm⟩
  | byte b =>
    refine .inr ⟨b, rfl, ?_⟩
    unfold ingressStep at h
    cases hph : s.phase with
    | halt => exact absurd hph hp
    | seek =>
      simp only [hph] at h
      split at h
      · rename_i hb
        exact .inl ⟨rfl, hb, by simpa using h.symm⟩
      · rename_i hb
        refine .inr (.inl ⟨rfl, hb, ?_⟩)
        have : execRxResyncByte b s = .next t := h
        rw [execRxResyncByte, whenRunning_running hp, hph] at this
        simpa using this.symm
    | cmd =>
      simp only [hph] at h
      exact .inr (.inr (.inl ⟨rfl, by simpa using h.symm⟩))
    | len =>
      simp only [hph] at h
      split at h
      · rename_i hb
        have : execRxIllegalLength s.cmd b s = .next t := h
        rw [execRxIllegalLength, whenRunning_running hp] at this
        exact .inr (.inr (.inr (.inl ⟨rfl, hb, by simpa using this.symm⟩)))
      · rename_i hb
        exact .inr (.inr (.inr (.inr (.inl ⟨rfl, Nat.not_lt.1 hb, by simpa using h.symm⟩))))
    | payload =>
      simp only [hph, State.storePayload] at h
      split at h
      · rename_i hi
        exact .inr (.inr (.inr (.inr (.inr (.inl ⟨rfl, hi, by simpa using h.symm⟩)))))
      · simp at h
    | chk =>
      simp only [hph] at h
      split at h
      · rename_i hb
        unfold acceptCandidate at h
        split at h
        · simp at h
        · rename_i d hd
          exact .inr (.inr (.inr (.inr (.inr (.inr (.inr ⟨rfl, hb, d, hd, h⟩))))))
      · rename_i hb
        exact .inr (.inr (.inr (.inr (.inr (.inr (.inl ⟨rfl, hb, by simpa using h.symm⟩))))))

/-- Everything the Host's call of a method can answer next. -/
theorem hostCall_next {c : Call} {t : State} (h : hostCall c s = .next t) :
    s.inflight = .idle ∧ c.fits = true ∧ ∃ u, transmit c.request c.payload s = .next u ∧
      ((s.txPort = .accepts ∧ t = { u with inflight := .awaiting c.command }) ∨
       (∃ n e, s.txPort = .fails n e ∧ t = u)) := by
  unfold hostCall at h
  cases hi : s.inflight with
  | awaiting c' => simp [hi] at h
  | idle =>
    simp only [hi] at h
    split at h
    · rename_i hf
      rw [exec_ofRequest] at h
      refine ⟨rfl, hf, ?_⟩
      split at h
      · rename_i u hu
        refine ⟨u, hu, ?_⟩
        cases hp : s.txPort with
        | accepts => exact .inl ⟨rfl, by simpa [hp] using h.symm⟩
        | fails n e => exact .inr ⟨n, e, rfl, by simpa [hp] using h.symm⟩
      · rename_i o hno
        exact absurd h (hno t)
    · simp at h

/-- Everything the Host's turn can answer next. -/
theorem hostTurn_next {t : State} (h : hostTurn s = .next t) :
    (t = s ∧ (s.inflight = .idle ∨ s.rch.wait = true)) ∨
    (∃ c, s.inflight = .awaiting c ∧ s.rch.wait = false ∧
      ((s.rch.queue = [] ∧ t = { s with rch := { s.rch with wait := true, woken := false } }) ∨
       (∃ f q, s.rch.queue = f :: q ∧
        hostInterpret c f { s with rch := { s.rch with queue := q, woken := false, out := s.rch.out ++ [f] } }
          = .next t))) := by
  unfold hostTurn at h
  cases hi : s.inflight with
  | idle => simp only [hi] at h; exact .inl ⟨by simpa using h.symm, .inl rfl⟩
  | awaiting c =>
    simp only [hi] at h
    by_cases hw : s.rch.wait = true
    · rw [if_pos hw] at h
      exact .inl ⟨by simpa using h.symm, .inr hw⟩
    · rw [if_neg hw] at h
      refine .inr ⟨c, rfl, by simpa using hw, ?_⟩
      rcases s.rch.waitAndPop_cases with ⟨hq, e⟩ | ⟨f, q, hq, e⟩
      · rw [e] at h
        exact .inl ⟨hq, by simpa using h.symm⟩
      · rw [e] at h
        exact .inr ⟨f, q, hq, h⟩

/-- Everything step 3 of a command can answer next. -/
theorem hostInterpret_next {c : Command} {f : Frame Response} {t : State} (h : hostInterpret c f s = .next t) :
    (s.cfg.respMismatch = .skipUntilMatch ∧ f.command ≠ c.expected ∧ t = s) ∨
    (∃ b d, f.data = b :: d ∧ t = { s.answer (c.interpret s.cfg b) with inflight := .idle }) := by
  unfold hostInterpret at h
  split at h
  · rename_i hm
    exact .inl ⟨hm.1, hm.2, by simpa using h.symm⟩
  · split at h
    · simp at h
    · rename_i b d hd
      exact .inr ⟨b, d, hd, by simpa using h.symm⟩

/-! Several steps. -/

theorem runSteps_succ (n : Nat) (s : State) :
    runSteps (n + 1) s =
      match step s with
      | .next t => runSteps n t
      | .fault r => .fault r
      | .refused r => .refused r := rfl

/-- `a + b` steps are `a` steps and then `b`. -/
theorem runSteps_add (a b : Nat) (s : State) :
    runSteps (a + b) s =
      match runSteps a s with
      | .next t => runSteps b t
      | .fault r => .fault r
      | .refused r => .refused r := by
  induction a generalizing s with
  | zero => simp [runSteps]
  | succ a ih =>
    rw [show a + 1 + b = a + b + 1 by omega, runSteps_succ, runSteps_succ]
    cases step s with
    | next t => exact ih t
    | fault r => rfl
    | refused r => rfl

end Sys2Proof.Machine
end

