-- ==== Sys2Proof/Tests/Slice0.lean ====
section
/-! SUPPORT. The model's own tests: what well-formedness refuses, words written out from the spec, one step of each instruction, and
for each statement a state and operands that meet its hypotheses. The expected values are those of `95_test_vectors.md` or
are worked out from the rule that a test names. -/

namespace Sys2Proof.Tests

open Sys2Proof.Machine

/-! Helpers. -/

/-- The next state, where there is one. -/
def next? : Host.Outcome State Fault Refusal → Option State
  | .next s => some s
  | _ => none

/-- The state after the instruction was presented to the next step and that step taken. -/
def after (s : State) (i : Instr) : Option State := next? (step (presentInstr i s))

/-- The state after this many steps. -/
def run (n : Nat) (s : State) : Option State := next? (runSteps n s)

/-- The state after reset with these bytes in the receive stream. -/
def receiving (bytes : List Byte) : State := { State.reset with rx := bytes.map .byte }

/-- The state after reset with these moves to come. -/
def scheduled (ms : List Move) : State := { State.reset with sched := ms }

/-- A configuration that gives PacketTransmit the code 0x8C. No source gives that code: it stands for any supplied one. -/
def withPacketTransmit : Config :=
  { Config.reference with codeEvt := { Config.reference.codeEvt with packetTransmit := some 0x8C#8 } }

/-- A Response frame and an Event frame for queues. -/
def rspA : Frame Response := { command := .transmitPower, data := [0x32#8] }
def rspB : Frame Response := { command := .rssi, data := [0xB5#8] }
def evtA : Frame Event := { command := .wakeup, data := [] }

/-- The Response channel holding these frames; the Event channel holding these. -/
def rqOf (q : List (Frame Response)) : Channel Response := { Channel.empty with queue := q }
def eqOf (q : List (Frame Event)) : Channel Event := { Channel.empty with queue := q }

/-- A host that awaits its Response, with this queue and these moves to come. -/
def awaiting (c : Command) (q : List (Frame Response)) (ms : List Move) : State :=
  { State.reset with inflight := .awaiting c, rch := rqOf q, sched := ms }

/-! Well-formedness refuses one ill-formed term for each of its checks (R101, R99, R100, R102), and takes the term at the
boundary. -/

theorem test_wf_request_payload :
    (Instr.reqSendData (List.replicate 225 0#8)).wf Config.reference = false ∧
    (Instr.reqSendData (List.replicate 224 0#8)).wf Config.reference = true := by decide +kernel

theorem test_wf_response_payload :
    (Instr.rspSendData (List.replicate 225 0#8)).wf Config.reference = false ∧
    (Instr.rspSendData (List.replicate 224 0#8)).wf Config.reference = true := by decide +kernel

theorem test_wf_event_payload :
    (Instr.evtWakeup (List.replicate 225 0#8)).wf Config.reference = false ∧
    (Instr.evtWakeup (List.replicate 224 0#8)).wf Config.reference = true := by decide +kernel

theorem test_wf_event_code :
    (Instr.evtPacketTransmit []).wf Config.reference = false ∧
    (Instr.evtPacketTransmit []).wf withPacketTransmit = true := by decide

theorem test_wf_resync_byte :
    (Instr.rxResyncByte 0x02#8).wf Config.reference = false ∧
    (Instr.rxResyncByte 0x03#8).wf Config.reference = true := by decide

theorem test_wf_illegal_length :
    (Instr.rxIllegalLength 0x40#8 0xE0#8).wf Config.reference = false ∧
    (Instr.rxIllegalLength 0x40#8 0xE1#8).wf Config.reference = true := by decide

theorem test_wf_unknown_id :
    (Instr.rxUnknownId 0x40#8 []).wf Config.reference = false ∧
    (Instr.rxUnknownId 0x41#8 []).wf Config.reference = true := by decide

theorem test_wf_unknown_id_payload :
    (Instr.rxUnknownId 0x7E#8 (List.replicate 225 0#8)).wf Config.reference = false ∧
    (Instr.rxUnknownId 0x7E#8 (List.replicate 224 0#8)).wf Config.reference = true := by decide +kernel

/-- The configurations meet R96 and R262; a table in which two Responses share a code does not. -/
theorem test_config_wellformed :
    Config.reference.WellFormed ∧ withPacketTransmit.WellFormed ∧
    ¬ ({ Config.reference with codeRsp := { Config.reference.codeRsp with reset := 0x44#8 } } : Config).WellFormed := by
  decide

/-! Requests: the frame of each variant, from section 2 of `95_test_vectors.md` (codes by R97). -/

/-- V10: these bytes are the row's frame, and the encoder writes them. -/
theorem test_reqSendData_word :
    decodeTx Config.reference [0x02#8, 0x00#8, 0x0C#8, 0x48#8, 0x65#8, 0x6C#8, 0x6C#8, 0x6F#8, 0x20#8, 0x57#8, 0x6F#8, 0x72#8, 0x6C#8, 0x64#8, 0x21#8, 0x0F#8] = .ok (.reqSendData [0x48#8, 0x65#8, 0x6C#8, 0x6C#8, 0x6F#8, 0x20#8, 0x57#8, 0x6F#8, 0x72#8, 0x6C#8, 0x64#8, 0x21#8], []) ∧
    encode Config.reference (.reqSendData [0x48#8, 0x65#8, 0x6C#8, 0x6C#8, 0x6F#8, 0x20#8, 0x57#8, 0x6F#8, 0x72#8, 0x6C#8, 0x64#8, 0x21#8]) = some [0x02#8, 0x00#8, 0x0C#8, 0x48#8, 0x65#8, 0x6C#8, 0x6C#8, 0x6F#8, 0x20#8, 0x57#8, 0x6F#8, 0x72#8, 0x6C#8, 0x64#8, 0x21#8, 0x0F#8] := by decide

theorem test_reqSendData_transmits :
    (after State.reset (.reqSendData [0x48#8, 0x65#8, 0x6C#8, 0x6C#8, 0x6F#8, 0x20#8, 0x57#8, 0x6F#8, 0x72#8, 0x6C#8, 0x64#8, 0x21#8])).map (·.tx) = some [0x02#8, 0x00#8, 0x0C#8, 0x48#8, 0x65#8, 0x6C#8, 0x6C#8, 0x6F#8, 0x20#8, 0x57#8, 0x6F#8, 0x72#8, 0x6C#8, 0x64#8, 0x21#8, 0x0F#8] := by decide

/-- V16: these bytes are the row's frame, and the encoder writes them. -/
theorem test_reqSendDataEx_word :
    decodeTx Config.reference [0x02#8, 0x01#8, 0x05#8, 0x6A#8, 0x00#8, 0x01#8, 0x41#8, 0x42#8, 0x6E#8] = .ok (.reqSendDataEx [0x6A#8, 0x00#8, 0x01#8, 0x41#8, 0x42#8], []) ∧
    encode Config.reference (.reqSendDataEx [0x6A#8, 0x00#8, 0x01#8, 0x41#8, 0x42#8]) = some [0x02#8, 0x01#8, 0x05#8, 0x6A#8, 0x00#8, 0x01#8, 0x41#8, 0x42#8, 0x6E#8] := by decide

theorem test_reqSendDataEx_transmits :
    (after State.reset (.reqSendDataEx [0x6A#8, 0x00#8, 0x01#8, 0x41#8, 0x42#8])).map (·.tx) = some [0x02#8, 0x01#8, 0x05#8, 0x6A#8, 0x00#8, 0x01#8, 0x41#8, 0x42#8, 0x6E#8] := by decide

/-- V17: these bytes are the row's frame, and the encoder writes them. -/
theorem test_reqSetMode_word :
    decodeTx Config.reference [0x02#8, 0x04#8, 0x01#8, 0x00#8, 0x07#8] = .ok (.reqSetMode [0x00#8], []) ∧
    encode Config.reference (.reqSetMode [0x00#8]) = some [0x02#8, 0x04#8, 0x01#8, 0x00#8, 0x07#8] := by decide

theorem test_reqSetMode_transmits :
    (after State.reset (.reqSetMode [0x00#8])).map (·.tx) = some [0x02#8, 0x04#8, 0x01#8, 0x00#8, 0x07#8] := by decide

/-- V18: these bytes are the row's frame, and the encoder writes them. -/
theorem test_reqReset_word :
    decodeTx Config.reference [0x02#8, 0x05#8, 0x00#8, 0x07#8] = .ok (.reqReset [], []) ∧
    encode Config.reference (.reqReset []) = some [0x02#8, 0x05#8, 0x00#8, 0x07#8] := by decide

theorem test_reqReset_transmits :
    (after State.reset (.reqReset [])).map (·.tx) = some [0x02#8, 0x05#8, 0x00#8, 0x07#8] := by decide

/-- V19: these bytes are the row's frame, and the encoder writes them. -/
theorem test_reqSetChannel_word :
    decodeTx Config.reference [0x02#8, 0x06#8, 0x01#8, 0x6A#8, 0x6F#8] = .ok (.reqSetChannel [0x6A#8], []) ∧
    encode Config.reference (.reqSetChannel [0x6A#8]) = some [0x02#8, 0x06#8, 0x01#8, 0x6A#8, 0x6F#8] := by decide

theorem test_reqSetChannel_transmits :
    (after State.reset (.reqSetChannel [0x6A#8])).map (·.tx) = some [0x02#8, 0x06#8, 0x01#8, 0x6A#8, 0x6F#8] := by decide

/-- V20: these bytes are the row's frame, and the encoder writes them. -/
theorem test_reqSetDestinationNetworkId_word :
    decodeTx Config.reference [0x02#8, 0x07#8, 0x01#8, 0x01#8, 0x05#8] = .ok (.reqSetDestinationNetworkId [0x01#8], []) ∧
    encode Config.reference (.reqSetDestinationNetworkId [0x01#8]) = some [0x02#8, 0x07#8, 0x01#8, 0x01#8, 0x05#8] := by decide

theorem test_reqSetDestinationNetworkId_transmits :
    (after State.reset (.reqSetDestinationNetworkId [0x01#8])).map (·.tx) = some [0x02#8, 0x07#8, 0x01#8, 0x01#8, 0x05#8] := by decide

/-- V21: these bytes are the row's frame, and the encoder writes them. -/
theorem test_reqSetDestinationAddress_word :
    decodeTx Config.reference [0x02#8, 0x08#8, 0x01#8, 0x05#8, 0x0E#8] = .ok (.reqSetDestinationAddress [0x05#8], []) ∧
    encode Config.reference (.reqSetDestinationAddress [0x05#8]) = some [0x02#8, 0x08#8, 0x01#8, 0x05#8, 0x0E#8] := by decide

theorem test_reqSetDestinationAddress_transmits :
    (after State.reset (.reqSetDestinationAddress [0x05#8])).map (·.tx) = some [0x02#8, 0x08#8, 0x01#8, 0x05#8, 0x0E#8] := by decide

/-- V22: these bytes are the row's frame, and the encoder writes them. -/
theorem test_reqSetUserSetting_word :
    decodeTx Config.reference [0x02#8, 0x09#8, 0x03#8, 0x04#8, 0x01#8, 0x6A#8, 0x67#8] = .ok (.reqSetUserSetting [0x04#8, 0x01#8, 0x6A#8], []) ∧
    encode Config.reference (.reqSetUserSetting [0x04#8, 0x01#8, 0x6A#8]) = some [0x02#8, 0x09#8, 0x03#8, 0x04#8, 0x01#8, 0x6A#8, 0x67#8] := by decide

theorem test_reqSetUserSetting_transmits :
    (after State.reset (.reqSetUserSetting [0x04#8, 0x01#8, 0x6A#8])).map (·.tx) = some [0x02#8, 0x09#8, 0x03#8, 0x04#8, 0x01#8, 0x6A#8, 0x67#8] := by decide

/-- V23: these bytes are the row's frame, and the encoder writes them. -/
theorem test_reqGetUserSetting_word :
    decodeTx Config.reference [0x02#8, 0x0A#8, 0x01#8, 0x04#8, 0x0D#8] = .ok (.reqGetUserSetting [0x04#8], []) ∧
    encode Config.reference (.reqGetUserSetting [0x04#8]) = some [0x02#8, 0x0A#8, 0x01#8, 0x04#8, 0x0D#8] := by decide

theorem test_reqGetUserSetting_transmits :
    (after State.reset (.reqGetUserSetting [0x04#8])).map (·.tx) = some [0x02#8, 0x0A#8, 0x01#8, 0x04#8, 0x0D#8] := by decide

/-- V24: these bytes are the row's frame, and the encoder writes them. -/
theorem test_reqRssi_word :
    decodeTx Config.reference [0x02#8, 0x0D#8, 0x00#8, 0x0F#8] = .ok (.reqRssi [], []) ∧
    encode Config.reference (.reqRssi []) = some [0x02#8, 0x0D#8, 0x00#8, 0x0F#8] := by decide

theorem test_reqRssi_transmits :
    (after State.reset (.reqRssi [])).map (·.tx) = some [0x02#8, 0x0D#8, 0x00#8, 0x0F#8] := by decide

/-- V25: these bytes are the row's frame, and the encoder writes them. -/
theorem test_reqShutdown_word :
    decodeTx Config.reference [0x02#8, 0x0E#8, 0x00#8, 0x0C#8] = .ok (.reqShutdown [], []) ∧
    encode Config.reference (.reqShutdown []) = some [0x02#8, 0x0E#8, 0x00#8, 0x0C#8] := by decide

theorem test_reqShutdown_transmits :
    (after State.reset (.reqShutdown [])).map (·.tx) = some [0x02#8, 0x0E#8, 0x00#8, 0x0C#8] := by decide

/-- V26: these bytes are the row's frame, and the encoder writes them. -/
theorem test_reqStandby_word :
    decodeTx Config.reference [0x02#8, 0x0F#8, 0x00#8, 0x0D#8] = .ok (.reqStandby [], []) ∧
    encode Config.reference (.reqStandby []) = some [0x02#8, 0x0F#8, 0x00#8, 0x0D#8] := by decide

theorem test_reqStandby_transmits :
    (after State.reset (.reqStandby [])).map (·.tx) = some [0x02#8, 0x0F#8, 0x00#8, 0x0D#8] := by decide

/-- V26a: these bytes are the row's frame, and the encoder writes them. -/
theorem test_reqTransmitPower_word :
    decodeTx Config.reference [0x02#8, 0x11#8, 0x01#8, 0x32#8, 0x20#8] = .ok (.reqTransmitPower [0x32#8], []) ∧
    encode Config.reference (.reqTransmitPower [0x32#8]) = some [0x02#8, 0x11#8, 0x01#8, 0x32#8, 0x20#8] := by decide

theorem test_reqTransmitPower_transmits :
    (after State.reset (.reqTransmitPower [0x32#8])).map (·.tx) = some [0x02#8, 0x11#8, 0x01#8, 0x32#8, 0x20#8] := by decide

/-- V26b: these bytes are the row's frame, and the encoder writes them. -/
theorem test_reqFactoryReset_word :
    decodeTx Config.reference [0x02#8, 0x12#8, 0x00#8, 0x10#8] = .ok (.reqFactoryReset [], []) ∧
    encode Config.reference (.reqFactoryReset []) = some [0x02#8, 0x12#8, 0x00#8, 0x10#8] := by decide

theorem test_reqFactoryReset_transmits :
    (after State.reset (.reqFactoryReset [])).map (·.tx) = some [0x02#8, 0x12#8, 0x00#8, 0x10#8] := by decide

/-! Responses: from section 4 of `95_test_vectors.md` (codes by R98). -/

/-- V70. -/
theorem test_rspSendData_word :
    decodeRx Config.reference [0x02#8, 0x40#8, 0x01#8, 0x00#8, 0x43#8] = .ok (.rspSendData [0x00#8], []) ∧
    encode Config.reference (.rspSendData [0x00#8]) = some [0x02#8, 0x40#8, 0x01#8, 0x00#8, 0x43#8] := by decide

theorem test_rspSendData_queued :
    (after State.reset (.rspSendData [0x00#8])).map (·.rch.queue) =
      some [{ command := .sendData, data := [0x00#8] }] := by decide

/-- V71. -/
theorem test_rspSetMode_word :
    decodeRx Config.reference [0x02#8, 0x44#8, 0x01#8, 0x00#8, 0x47#8] = .ok (.rspSetMode [0x00#8], []) ∧
    encode Config.reference (.rspSetMode [0x00#8]) = some [0x02#8, 0x44#8, 0x01#8, 0x00#8, 0x47#8] := by decide

theorem test_rspSetMode_queued :
    (after State.reset (.rspSetMode [0x00#8])).map (·.rch.queue) =
      some [{ command := .setMode, data := [0x00#8] }] := by decide

/-- V72. -/
theorem test_rspReset_word :
    decodeRx Config.reference [0x02#8, 0x45#8, 0x01#8, 0x00#8, 0x46#8] = .ok (.rspReset [0x00#8], []) ∧
    encode Config.reference (.rspReset [0x00#8]) = some [0x02#8, 0x45#8, 0x01#8, 0x00#8, 0x46#8] := by decide

theorem test_rspReset_queued :
    (after State.reset (.rspReset [0x00#8])).map (·.rch.queue) =
      some [{ command := .reset, data := [0x00#8] }] := by decide

/-- V73. -/
theorem test_rspSetChannel_word :
    decodeRx Config.reference [0x02#8, 0x46#8, 0x01#8, 0x6A#8, 0x2F#8] = .ok (.rspSetChannel [0x6A#8], []) ∧
    encode Config.reference (.rspSetChannel [0x6A#8]) = some [0x02#8, 0x46#8, 0x01#8, 0x6A#8, 0x2F#8] := by decide

theorem test_rspSetChannel_queued :
    (after State.reset (.rspSetChannel [0x6A#8])).map (·.rch.queue) =
      some [{ command := .setChannel, data := [0x6A#8] }] := by decide

/-- V74. -/
theorem test_rspSetDestinationNetworkId_word :
    decodeRx Config.reference [0x02#8, 0x47#8, 0x01#8, 0x00#8, 0x44#8] = .ok (.rspSetDestinationNetworkId [0x00#8], []) ∧
    encode Config.reference (.rspSetDestinationNetworkId [0x00#8]) = some [0x02#8, 0x47#8, 0x01#8, 0x00#8, 0x44#8] := by decide

theorem test_rspSetDestinationNetworkId_queued :
    (after State.reset (.rspSetDestinationNetworkId [0x00#8])).map (·.rch.queue) =
      some [{ command := .setDestinationNetworkId, data := [0x00#8] }] := by decide

/-- V75. -/
theorem test_rspSetDestinationAddress_word :
    decodeRx Config.reference [0x02#8, 0x48#8, 0x01#8, 0x00#8, 0x4B#8] = .ok (.rspSetDestinationAddress [0x00#8], []) ∧
    encode Config.reference (.rspSetDestinationAddress [0x00#8]) = some [0x02#8, 0x48#8, 0x01#8, 0x00#8, 0x4B#8] := by decide

theorem test_rspSetDestinationAddress_queued :
    (after State.reset (.rspSetDestinationAddress [0x00#8])).map (·.rch.queue) =
      some [{ command := .setDestinationAddress, data := [0x00#8] }] := by decide

/-- V76. -/
theorem test_rspSetUserSetting_word :
    decodeRx Config.reference [0x02#8, 0x49#8, 0x01#8, 0x00#8, 0x4A#8] = .ok (.rspSetUserSetting [0x00#8], []) ∧
    encode Config.reference (.rspSetUserSetting [0x00#8]) = some [0x02#8, 0x49#8, 0x01#8, 0x00#8, 0x4A#8] := by decide

theorem test_rspSetUserSetting_queued :
    (after State.reset (.rspSetUserSetting [0x00#8])).map (·.rch.queue) =
      some [{ command := .setUserSetting, data := [0x00#8] }] := by decide

/-- V77. -/
theorem test_rspGetUserSetting_word :
    decodeRx Config.reference [0x02#8, 0x4A#8, 0x03#8, 0x00#8, 0x01#8, 0x6A#8, 0x20#8] = .ok (.rspGetUserSetting [0x00#8, 0x01#8, 0x6A#8], []) ∧
    encode Config.reference (.rspGetUserSetting [0x00#8, 0x01#8, 0x6A#8]) = some [0x02#8, 0x4A#8, 0x03#8, 0x00#8, 0x01#8, 0x6A#8, 0x20#8] := by decide

theorem test_rspGetUserSetting_queued :
    (after State.reset (.rspGetUserSetting [0x00#8, 0x01#8, 0x6A#8])).map (·.rch.queue) =
      some [{ command := .getUserSetting, data := [0x00#8, 0x01#8, 0x6A#8] }] := by decide

/-- V78. -/
theorem test_rspRssi_word :
    decodeRx Config.reference [0x02#8, 0x4D#8, 0x01#8, 0xB5#8, 0xFB#8] = .ok (.rspRssi [0xB5#8], []) ∧
    encode Config.reference (.rspRssi [0xB5#8]) = some [0x02#8, 0x4D#8, 0x01#8, 0xB5#8, 0xFB#8] := by decide

theorem test_rspRssi_queued :
    (after State.reset (.rspRssi [0xB5#8])).map (·.rch.queue) =
      some [{ command := .rssi, data := [0xB5#8] }] := by decide

/-- V79. -/
theorem test_rspShutdown_word :
    decodeRx Config.reference [0x02#8, 0x4E#8, 0x01#8, 0x00#8, 0x4D#8] = .ok (.rspShutdown [0x00#8], []) ∧
    encode Config.reference (.rspShutdown [0x00#8]) = some [0x02#8, 0x4E#8, 0x01#8, 0x00#8, 0x4D#8] := by decide

theorem test_rspShutdown_queued :
    (after State.reset (.rspShutdown [0x00#8])).map (·.rch.queue) =
      some [{ command := .shutdown, data := [0x00#8] }] := by decide

/-- V80. -/
theorem test_rspStandby_word :
    decodeRx Config.reference [0x02#8, 0x4F#8, 0x01#8, 0x00#8, 0x4C#8] = .ok (.rspStandby [0x00#8], []) ∧
    encode Config.reference (.rspStandby [0x00#8]) = some [0x02#8, 0x4F#8, 0x01#8, 0x00#8, 0x4C#8] := by decide

theorem test_rspStandby_queued :
    (after State.reset (.rspStandby [0x00#8])).map (·.rch.queue) =
      some [{ command := .standby, data := [0x00#8] }] := by decide

/-- V81. -/
theorem test_rspTransmitPower_word :
    decodeRx Config.reference [0x02#8, 0x51#8, 0x01#8, 0x32#8, 0x60#8] = .ok (.rspTransmitPower [0x32#8], []) ∧
    encode Config.reference (.rspTransmitPower [0x32#8]) = some [0x02#8, 0x51#8, 0x01#8, 0x32#8, 0x60#8] := by decide

theorem test_rspTransmitPower_queued :
    (after State.reset (.rspTransmitPower [0x32#8])).map (·.rch.queue) =
      some [{ command := .transmitPower, data := [0x32#8] }] := by decide

/-- V82. -/
theorem test_rspFactoryReset_word :
    decodeRx Config.reference [0x02#8, 0x52#8, 0x01#8, 0x00#8, 0x51#8] = .ok (.rspFactoryReset [0x00#8], []) ∧
    encode Config.reference (.rspFactoryReset [0x00#8]) = some [0x02#8, 0x52#8, 0x01#8, 0x00#8, 0x51#8] := by decide

theorem test_rspFactoryReset_queued :
    (after State.reset (.rspFactoryReset [0x00#8])).map (·.rch.queue) =
      some [{ command := .factoryReset, data := [0x00#8] }] := by decide

/-! Events: from section 4 of `95_test_vectors.md` (codes by R99; PacketTransmit with the code 0x8C that `withPacketTransmit` gives). -/

/-- V83. -/
theorem test_evtDataRepeat_word :
    decodeRx Config.reference [0x02#8, 0x80#8, 0x02#8, 0x41#8, 0x42#8, 0x83#8] = .ok (.evtDataRepeat [0x41#8, 0x42#8], []) ∧
    encode Config.reference (.evtDataRepeat [0x41#8, 0x42#8]) = some [0x02#8, 0x80#8, 0x02#8, 0x41#8, 0x42#8, 0x83#8] := by decide

theorem test_evtDataRepeat_queued :
    (after State.reset (.evtDataRepeat [0x41#8, 0x42#8])).map (·.ech.queue) =
      some [{ command := .dataRepeat, data := [0x41#8, 0x42#8] }] := by decide

/-- V84. -/
theorem test_evtDataReceived_word :
    decodeRx Config.reference [0x02#8, 0x81#8, 0x03#8, 0x48#8, 0x69#8, 0xC4#8, 0x65#8] = .ok (.evtDataReceived [0x48#8, 0x69#8, 0xC4#8], []) ∧
    encode Config.reference (.evtDataReceived [0x48#8, 0x69#8, 0xC4#8]) = some [0x02#8, 0x81#8, 0x03#8, 0x48#8, 0x69#8, 0xC4#8, 0x65#8] := by decide

theorem test_evtDataReceived_queued :
    (after State.reset (.evtDataReceived [0x48#8, 0x69#8, 0xC4#8])).map (·.ech.queue) =
      some [{ command := .dataReceived, data := [0x48#8, 0x69#8, 0xC4#8] }] := by decide

/-- V85. -/
theorem test_evtReset_word :
    decodeRx Config.reference [0x02#8, 0x85#8, 0x00#8, 0x87#8] = .ok (.evtReset [], []) ∧
    encode Config.reference (.evtReset []) = some [0x02#8, 0x85#8, 0x00#8, 0x87#8] := by decide

theorem test_evtReset_queued :
    (after State.reset (.evtReset [])).map (·.ech.queue) =
      some [{ command := .reset, data := [] }] := by decide

/-- V86. -/
theorem test_evtWakeup_word :
    decodeRx Config.reference [0x02#8, 0x8F#8, 0x00#8, 0x8D#8] = .ok (.evtWakeup [], []) ∧
    encode Config.reference (.evtWakeup []) = some [0x02#8, 0x8F#8, 0x00#8, 0x8D#8] := by decide

theorem test_evtWakeup_queued :
    (after State.reset (.evtWakeup [])).map (·.ech.queue) =
      some [{ command := .wakeup, data := [] }] := by decide

/-- R203 and the note under V89: with a supplied code `c`, the frame `02 c 00 (02^c)`. -/
theorem test_evtPacketTransmit_word :
    decodeRx withPacketTransmit [0x02#8, 0x8C#8, 0x00#8, 0x8E#8] = .ok (.evtPacketTransmit [], []) ∧
    encode withPacketTransmit (.evtPacketTransmit []) = some [0x02#8, 0x8C#8, 0x00#8, 0x8E#8] := by decide

theorem test_evtPacketTransmit_queued :
    (after { State.reset with cfg := withPacketTransmit } (.evtPacketTransmit [])).map (·.ech.queue) =
      some [{ command := .packetTransmit, data := [] }] := by decide
/-! The three rows that are no variant. -/

/-- R100, R152. -/
theorem test_rxResyncByte_word :
    decodeRx Config.reference [0xFF#8] = .ok (.rxResyncByte 0xFF#8, []) ∧
    encode Config.reference (.rxResyncByte 0xFF#8) = some [0xFF#8] := by decide

theorem test_rxResyncByte_counted :
    (after State.reset (.rxResyncByte 0xFF#8)).map (fun s => (s.phase, s.resyncCnt)) = some (.seek, 1#32) := by decide

/-- V34. -/
theorem test_rxIllegalLength_word :
    decodeRx Config.reference [0x02#8, 0x40#8, 0xE1#8] = .ok (.rxIllegalLength 0x40#8 0xE1#8, []) ∧
    encode Config.reference (.rxIllegalLength 0x40#8 0xE1#8) = some [0x02#8, 0x40#8, 0xE1#8] := by decide

/-- V34: ACC is not folded with the illegal LENGTH. -/
theorem test_rxIllegalLength_halts :
    (run 3 (receiving [0x02#8, 0x40#8, 0xE1#8])).map (fun s => (s.phase, s.err, s.cmd, s.acc)) =
      some (.halt, .payloadLength, 0x40#8, 0x42#8) := by decide

/-- V37. -/
theorem test_rxUnknownId_word :
    decodeRx Config.reference [0x02#8, 0x7E#8, 0x00#8, 0x7C#8] = .ok (.rxUnknownId 0x7E#8 [], []) ∧
    encode Config.reference (.rxUnknownId 0x7E#8 []) = some [0x02#8, 0x7E#8, 0x00#8, 0x7C#8] := by decide

theorem test_rxUnknownId_counted :
    (run 4 (receiving [0x02#8, 0x7E#8, 0x00#8, 0x7C#8])).map (fun s => (s.phase, s.unknownCnt, s.rch, s.ech)) =
      some (.seek, 1#32, Channel.empty, Channel.empty) := by decide

/-! Words of the opcode table, one for each family, decoded and run as the first step after reset. -/

theorem test_word_request :
    decodeTableWord 24 0x020600 = some (.reqSetChannel []) ∧
    (next? (step (State.reset.withFetchWord 24 0x020600))).map (·.tx) = some [0x02#8, 0x06#8, 0x00#8, 0x04#8] := by decide

theorem test_word_response :
    decodeTableWord 24 0x024D01 = some (.rspRssi [0x00#8]) ∧
    (next? (step (State.reset.withFetchWord 24 0x024D01))).map (·.rch.queue) =
      some [{ command := .rssi, data := [0x00#8] }] := by decide

theorem test_word_event :
    decodeTableWord 24 0x028F00 = some (.evtWakeup []) ∧
    (next? (step (State.reset.withFetchWord 24 0x028F00))).map (·.ech.queue) =
      some [{ command := .wakeup, data := [] }] := by decide

theorem test_word_resync :
    decodeTableWord 8 0x00 = some (.rxResyncByte 0x00#8) ∧ decodeTableWord 8 0x02 = none ∧
    (next? (step (State.reset.withFetchWord 8 0x00))).map (·.resyncCnt) = some 1#32 := by decide

theorem test_word_illegal_length :
    decodeTableWord 24 0x0200FF = some (.rxIllegalLength 0x00#8 0xFF#8) ∧
    (next? (step (State.reset.withFetchWord 24 0x0200FF))).map (·.phase) = some .halt := by decide

/-- V87: 0x41 is no Response code, and no Request or Event code either. -/
theorem test_word_unknown_id :
    decodeTableWord 24 0x024100 = some (.rxUnknownId 0x41#8 []) ∧
    (next? (step (State.reset.withFetchWord 24 0x024100))).map (·.unknownCnt) = some 1#32 := by decide

/-- The longest word of a row is presented whole as well. -/
theorem test_word_longest :
    ((next? (step (State.reset.withFetchWord 24 0x0280E0))).map (fun s => s.ech.queue.map (·.data.length))) =
      some [224] := by decide +kernel

/-! The parameters. -/

/-- R7: the table's rows with a printed or derived value, whatever the configuration. -/
theorem test_parameters (c : Config) :
    c.parameters.startByte = 0x02#8 ∧ c.parameters.maxPayloadLen = 224 ∧ c.parameters.frameOverhead = 4 ∧
    c.parameters.maxFrameLen = 228 ∧ c.parameters.respDepth = 2 ∧ c.parameters.evtDepth = 16 ∧ c.parameters.byteW = 8 ∧
    c.parameters.responseSet.length = 13 ∧ c.parameters.cntW = 32 ∧ c.parameters.sendMax = 220 ∧
    c.parameters.rssiUnavailable = 0x80#8 :=
  ⟨rfl, rfl, rfl, rfl, rfl, rfl, rfl, rfl, rfl, rfl, rfl⟩

/-- R98: in the reference mapping a Response code is its Request's code and `RESP_CODE_OFFSET`. -/
theorem test_response_code_offset :
    ∀ k ∈ Response.all, Config.reference.rsp k = Config.reference.req k.request + Config.respCodeOffset := by decide

/-! The codec. -/

/-- V1: the source's checksum vector. -/
theorem test_checksum_hello :
    checksum [0x02#8, 0x00#8, 0x0C#8, 0x48#8, 0x65#8, 0x6C#8, 0x6C#8, 0x6F#8, 0x20#8, 0x57#8, 0x6F#8, 0x72#8, 0x6C#8,
      0x64#8, 0x21#8] = 0x0F#8 := by decide

/-- V40 to V44a: one slice for each check of `decode_frame`, at its boundary. -/
theorem test_decode_frame :
    decodeFrame [0x02#8, 0x00#8, 0x00#8, 0x02#8] = .ok (0x00#8, []) ∧
    decodeFrame [0x02#8, 0x00#8, 0xE1#8] = .error .truncated ∧
    decodeFrame [0x01#8, 0x00#8, 0xFF#8, 0xFE#8] = .error .startByte ∧
    decodeFrame [0x02#8, 0x00#8, 0xE1#8, 0xE3#8] = .error .payloadLength ∧
    decodeFrame [0x02#8, 0x00#8, 0x01#8, 0x03#8] = .error .lengthMismatch ∧
    decodeFrame [0x02#8, 0x00#8, 0x00#8, 0x02#8, 0x00#8] = .error .lengthMismatch ∧
    decodeFrame [0x02#8, 0x00#8, 0x00#8, 0x03#8] = .error .checksum := by decide

/-! The ingress machine. -/

/-- V27: START bytes inside the payload do not end the frame. -/
theorem test_start_bytes_in_payload :
    (run 7 (receiving [0x02#8, 0x81#8, 0x03#8, 0x02#8, 0x02#8, 0x02#8, 0x82#8])).map
      (fun s => (s.ech.queue, s.chkerrCnt, s.resyncCnt, s.idx, s.acc)) =
      some ([{ command := .dataReceived, data := [0x02#8, 0x02#8, 0x02#8] }], 0#32, 0#32, 3#8, 0x82#8) := by decide

/-- V33: 224 is a legal LENGTH. -/
theorem test_length_limit :
    (run 3 (receiving [0x02#8, 0x40#8, 0xE0#8])).map (fun s => (s.phase, s.len, s.idx, s.err)) =
      some (.payload, 0xE0#8, 0#8, .none) := by decide

/-- V38: a bad checksum on an unknown id counts the checksum error alone. -/
theorem test_bad_checksum :
    (run 4 (receiving [0x02#8, 0x7E#8, 0x00#8, 0x7D#8])).map (fun s => (s.phase, s.chkerrCnt, s.unknownCnt)) =
      some (.seek, 1#32, 0#32) := by decide

/-- V39: a transport error in the middle of a header. -/
theorem test_transport_error :
    (run 3 { State.reset with rx := [.byte 0x02#8, .byte 0x40#8, .ioErr 7] }).map (fun s => (s.phase, s.err, s.acc)) =
      some (.halt, .io 7, 0x42#8) := by decide

/-- V39b: a halted machine leaves the bytes after the fatal one in RX. -/
theorem test_halted_takes_nothing :
    (run 8 (receiving [0x02#8, 0x40#8, 0xE1#8, 0x02#8, 0x45#8, 0x01#8, 0x00#8, 0x46#8])).map
      (fun s => (s.phase, s.rx.length, s.rch.queue)) = some (.halt, 5, []) := by decide

/-! Channels and host. -/

/-- V52: the third Response is lost and counted. -/
theorem test_third_response_dropped :
    (after { State.reset with rch := rqOf [rspA, rspB] } (.rspReset [0x00#8])).map
      (fun s => (s.rch.queue, s.rch.dropCnt, s.phase)) = some ([rspA, rspB], 1#32, .seek) := by decide

/-- V57, V58: a push on the empty queue wakes its own waiter and no other. -/
theorem test_wake :
    (after { State.reset with rch := { Channel.empty with wait := true }, ech := { Channel.empty with wait := true } }
      (.rspRssi [0xB5#8])).map (fun s => (s.rch.queue, s.rch.wait, s.rch.woken, s.ech.wait)) =
      some ([rspB], false, true, true) := by decide

/-- V62: `tx_power(50)`, from the call to its result, the Response arriving while the host waits. -/
theorem test_tx_power_ok :
    (run 8 { receiving [0x02#8, 0x51#8, 0x01#8, 0x32#8, 0x60#8] with
      sched := [.call (.txPower 0x32#8), .host, .ingress, .ingress, .ingress, .ingress, .ingress, .host] }).map
      (fun s => (s.tx, s.results, s.inflight)) =
      some ([0x02#8, 0x11#8, 0x01#8, 0x32#8, 0x20#8], [.ok], .idle) := by decide

/-- V63, V64, V66a, V66f: what the methods make of the status byte. -/
theorem test_status_readings :
    (Command.txPower 0x32#8).interpret Config.reference 0x00#8 = .status .unit ∧
    Command.rssi.interpret Config.reference 0xB5#8 = .byte 0xB5#8 ∧
    Command.send.interpret Config.reference 0x01#8 = .status (.sendData .ackTimeout) ∧
    Command.send.interpret Config.reference 0x7B#8 = .status (.sendData (.other 0x7B#8)) := by decide

/-- V59: the timeout cancels the wait. -/
theorem test_timeout :
    (run 3 (scheduled [.call .rssi, .host, .timeout])).map (fun s => (s.rch.wait, s.results, s.inflight)) =
      some (false, [.timeout], .idle) := by decide

/-- R307: after RESTART the machine seeks again with ERR clear; RX and the counters are kept. -/
theorem test_restart :
    ∃ t, step { scheduled [.restart] with phase := .halt, err := .payloadLength, rx := [.byte 0x45#8], resyncCnt := 3#32 } =
      .next t ∧ t.phase = .seek ∧ t.err = .none ∧ t.idx = 0#8 ∧ t.rx = [.byte 0x45#8] ∧ t.resyncCnt = 3#32 :=
  ⟨_, rfl, rfl, rfl, rfl, rfl, rfl⟩

/-! What the statements assume can be met: for each statement with hypotheses, states and operands that meet all of them, at the
boundary of a range where there is one. Each is named after its statement. -/

theorem witness_StepRunsDecodedInstruction_resync :
    (receiving [0xFF#8]).Inv ∧ (receiving [0xFF#8]).Takes (.byte 0xFF#8) ∧ (receiving [0xFF#8]).candidate = some [] ∧
    decodeRx (receiving [0xFF#8]).cfg ([] ++ [0xFF#8]) = .ok (.rxResyncByte 0xFF#8, []) :=
  ⟨by decide +kernel, by decide, rfl, by decide⟩

/-- A Response frame but for its checksum byte, which is at the head of RX. -/
def heldResponse : State := presentInstr (.rspTransmitPower [0x32#8]) State.reset

theorem witness_StepRunsDecodedInstruction_frame :
    heldResponse.Inv ∧ heldResponse.Takes (.byte 0x60#8) ∧
    heldResponse.candidate = some [0x02#8, 0x51#8, 0x01#8, 0x32#8] ∧
    decodeRx heldResponse.cfg ([0x02#8, 0x51#8, 0x01#8, 0x32#8] ++ [0x60#8]) =
      .ok (.rspTransmitPower [0x32#8], []) :=
  ⟨by decide +kernel, by decide, by decide, by decide⟩

theorem witness_StepRunsDecodedInstruction_request :
    (scheduled [.request .rssi []]).sched = .request .rssi [] :: [] ∧
    (scheduled [.request .rssi []]).inflight = .idle := by decide

theorem witness_DecodeOfEncodeIsIdentity :
    Config.reference.WellFormed ∧ (Instr.reqSendData (List.replicate 224 0xAA#8)).wf Config.reference = true ∧
    (Instr.rspRssi []).wf Config.reference = true ∧ (Instr.rxResyncByte 0xFF#8).wf Config.reference = true ∧
    (Instr.rxIllegalLength 0x02#8 0xE1#8).wf Config.reference = true ∧
    (Instr.rxUnknownId 0x7E#8 []).wf Config.reference = true ∧ withPacketTransmit.WellFormed ∧
    (Instr.evtPacketTransmit [0x02#8]).wf withPacketTransmit = true := by decide +kernel

theorem witness_EncodeOfDecodeIsIdentity :
    decode Config.reference .rx [0x02#8, 0x40#8, 0x01#8, 0x00#8, 0x43#8, 0x02#8] =
      .ok (.rspSendData [0x00#8], [0x02#8]) ∧
    decode Config.reference .tx [0x02#8, 0x05#8, 0x00#8, 0x07#8] = .ok (.reqReset [], []) := by decide

theorem witness_ChecksumLaws :
    [1#8, 2#8].Perm [2#8, 1#8] ∧ 0 < [0x00#8].length ∧ (7 : Nat) < 8 ∧ 1 < [0x00#8, 0x00#8].length := by decide

theorem witness_DecodeHeaderReadsLength : (0xE0#8).toNat ≤ 224 ∧ 224 < (0xE1#8).toNat := by decide

theorem witness_DecodeFrameFirstFailureWins :
    [0x02#8, 0x00#8, 0x00#8].length < 4 ∧ 1 ≤ [0x02#8].length := by decide

theorem witness_RoundTrip_raw : (List.replicate 224 0xAA#8).length ≤ 224 ∧ ([] : List Byte).length ≤ 224 := by decide +kernel

theorem witness_SingleBitFlipRejected :
    frameWf [0x02#8, 0x00#8, 0x00#8, 0x02#8] = true ∧ 1 ≤ 3 ∧ 3 < [0x02#8, 0x00#8, 0x00#8, 0x02#8].length ∧ 7 < 8 := by
  decide

theorem witness_ClassifyIsTotalLookup :
    Config.reference.WellFormed ∧ Config.reference.rsp .factoryReset = 0x52#8 ∧
    Config.reference.evt .wakeup = some 0x8F#8 ∧ (∀ k ∈ Response.all, Config.reference.rsp k ≠ 0xFF#8) ∧
    (∀ k ∈ Event.all, Config.reference.evt k ≠ some 0xFF#8) := by decide

theorem witness_ClassifyIsTotalLookup_unknown :
    (∀ k, Config.reference.rsp k ≠ 0xFF#8) ∧ (∀ k, Config.reference.evt k ≠ some 0xFF#8) :=
  ⟨fun k => by cases k <;> decide, fun k => by cases k <;> decide⟩

theorem witness_SeekTakesStartByte :
    (receiving [0x02#8]).Takes (.byte 0x02#8) ∧ (receiving [0x02#8]).phase = .seek := by decide

theorem witness_SeekDiscardsOtherBytes :
    (receiving [0x03#8]).Takes (.byte 0x03#8) ∧ (receiving [0x03#8]).phase = .seek ∧ (0x03#8) ≠ 0x02#8 := by decide

/-- The state after the header bytes START and COMMAND_ID. -/
def inCmd (b : Byte) : State := { receiving [b] with phase := .cmd, acc := 0x02#8 }
def inLen (b : Byte) : State := { receiving [b] with phase := .len, cmd := 0x40#8, acc := 0x42#8 }

theorem witness_CommandByteTaken : (inCmd 0x40#8).Takes (.byte 0x40#8) ∧ (inCmd 0x40#8).phase = .cmd := by decide

theorem witness_LegalLengthTaken :
    (inLen 0x00#8).Takes (.byte 0x00#8) ∧ (inLen 0xE0#8).Takes (.byte 0xE0#8) ∧ (inLen 0xE0#8).phase = .len ∧
    (0x00#8).toNat ≤ 224 ∧ (0xE0#8).toNat ≤ 224 := by decide

theorem witness_IllegalLengthHalts :
    (inLen 0xE1#8).Takes (.byte 0xE1#8) ∧ (inLen 0xE1#8).phase = .len ∧ 224 < (0xE1#8).toNat := by decide

/-- The first of `l` payload bytes is at the head of RX. -/
def inPayload (l b : Byte) : State :=
  { receiving [b] with phase := .payload, cmd := 0x40#8, len := l, acc := 0x42#8 ^^^ l }

theorem witness_PayloadByteStored :
    (inPayload 0x01#8 0xAA#8).Inv ∧ (inPayload 0x01#8 0xAA#8).Takes (.byte 0xAA#8) ∧
    (inPayload 0xE0#8 0xAA#8).Inv ∧ (inPayload 0xE0#8 0xAA#8).Takes (.byte 0xAA#8) ∧
    (inPayload 0xE0#8 0xAA#8).phase = .payload :=
  ⟨by decide +kernel, by decide, by decide +kernel, by decide, rfl⟩

/-- Frames of each class but for their checksum byte. -/
def heldEvent : State := presentInstr (.evtReset []) State.reset
def heldUnknown : State := presentInstr (.rxUnknownId 0x7E#8 []) State.reset

theorem witness_ChecksumMatchRoutes :
    heldResponse.Inv ∧ heldResponse.Takes (.byte heldResponse.acc) ∧ heldResponse.phase = .chk ∧
    classify heldResponse.cfg heldResponse.cmd = .response .transmitPower ∧
    heldEvent.Inv ∧ heldEvent.Takes (.byte heldEvent.acc) ∧ heldEvent.phase = .chk ∧
    classify heldEvent.cfg heldEvent.cmd = .event .reset ∧
    heldUnknown.Inv ∧ heldUnknown.Takes (.byte heldUnknown.acc) ∧ heldUnknown.phase = .chk ∧
    classify heldUnknown.cfg heldUnknown.cmd = .unknown :=
  ⟨by decide +kernel, by decide, rfl, by decide, by decide +kernel, by decide, rfl, by decide, by decide +kernel,
    by decide, rfl, by decide⟩

theorem witness_ChecksumMismatchDiscards :
    { heldResponse with rx := [.byte 0x61#8] }.Takes (.byte 0x61#8) ∧
    { heldResponse with rx := [.byte 0x61#8] }.phase = .chk ∧ (0x61#8) ≠ heldResponse.acc := by decide

theorem witness_TransportErrorHalts : { State.reset with rx := [.ioErr 7] }.Takes (.ioErr 7) := by decide

theorem witness_HaltedOrStarvedTakesNothing :
    { receiving [0x02#8] with phase := .halt, err := .payloadLength }.ingressNext ∧
    { receiving [0x02#8] with phase := .halt, err := .payloadLength }.phase = .halt ∧
    State.reset.ingressNext ∧ State.reset.rx = [] := by decide

/-- A transport that fails after three bytes. -/
def failing : State := { State.reset with txPort := .fails 3 7 }

theorem witness_RequestEncodesAndTransmits :
    (List.replicate 224 0xAA#8).length ≤ 224 ∧ 4 + (List.replicate 224 0xAA#8).length ≤ State.reset.encCap ∧
    State.reset.txPort = .accepts := by decide +kernel

theorem witness_RequestWriteErrorReported :
    (List.replicate 224 0xAA#8).length ≤ 224 ∧ 4 + (List.replicate 224 0xAA#8).length ≤ failing.encCap ∧
    failing.txPort = .fails 3 7 := by decide +kernel

/-- V13, V14, V15. -/
theorem witness_EncodeContractFaults :
    224 < (List.replicate 225 0xAA#8).length ∧
    { State.reset with encCap := 8 }.encCap < 4 + (List.replicate 5 0x00#8).length ∧
    4 + (List.replicate 5 0x00#8).length ≤ { State.reset with encCap := 9 }.encCap := by decide +kernel

theorem witness_RequestFrame : ∃ t, exec (.ofRequest .rssi []) State.reset = .next t := ⟨_, rfl⟩

theorem witness_ResponsePushedWithRoom :
    { State.reset with rch := rqOf [rspA] }.phase ≠ .halt ∧
    { State.reset with rch := rqOf [rspA] }.rch.queue.length < 2 := by decide

theorem witness_EventPushedWithRoom :
    { State.reset with ech := eqOf (List.replicate 15 evtA) }.phase ≠ .halt ∧
    { State.reset with ech := eqOf (List.replicate 15 evtA) }.ech.queue.length < 16 := by decide

theorem witness_FullChannelDropsNewFrame :
    { State.reset with rch := rqOf [rspA, rspB] }.phase ≠ .halt ∧
    { State.reset with rch := rqOf [rspA, rspB] }.rch.queue.length = 2 ∧
    { State.reset with ech := eqOf (List.replicate 16 evtA) }.phase ≠ .halt ∧
    { State.reset with ech := eqOf (List.replicate 16 evtA) }.ech.queue.length = 16 := by decide

theorem witness_ByteClassesComplete : State.reset.phase ≠ .halt := by decide

theorem witness_ReceivedInstructionFrame :
    (∃ t, exec (.rspRssi [0xB5#8]) State.reset = .next t) ∧ (∃ t, exec (.evtReset []) State.reset = .next t) ∧
    (∃ t, exec (.rxResyncByte 0x00#8) State.reset = .next t) ∧
    (∃ t, exec (.rxIllegalLength 0x40#8 0xE1#8) State.reset = .next t) ∧
    (∃ t, exec (.rxUnknownId 0x7E#8 []) State.reset = .next t) ∧
    (Instr.rspRssi [0xB5#8]).direction = .rx ∧ (Instr.evtReset []).direction = .rx ∧
    (Instr.rxResyncByte 0x00#8).direction = .rx :=
  ⟨⟨_, rfl⟩, ⟨_, rfl⟩, ⟨_, rfl⟩, ⟨_, rfl⟩, ⟨_, rfl⟩, rfl, rfl, rfl⟩

theorem witness_HaltedMachineRunsNoReceivedRow :
    (Instr.rspRssi [0xB5#8]).direction = .rx ∧ (Instr.evtReset []).direction = .rx ∧
    (Instr.rxResyncByte 0xFF#8).direction = .rx ∧
    { State.reset with phase := .halt, err := .payloadLength }.phase = .halt := by decide

/-- Both consumers suspended on empty queues; both consumers woken. -/
def suspended : State :=
  { State.reset with
    rch := { Channel.empty with wait := true }, ech := { Channel.empty with wait := true }, inflight := .awaiting .rssi }
def woken : State := { State.reset with ech := { eqOf [evtA] with woken := true }, sched := [.eventCaller] }

theorem witness_WakeExactlyOnEmptyPush :
    (∃ t, exec (.ofResponse .rssi []) suspended = .next t) ∧ (∃ t, exec (.ofEvent .reset []) suspended = .next t) ∧
    suspended.phase ≠ .halt ∧ suspended.rch.queue = [] ∧ suspended.rch.wait = true ∧ suspended.ech.queue = [] ∧
    suspended.ech.wait = true ∧ (∃ t, exec (.ofResponse .rssi []) { State.reset with rch := rqOf [rspA] } = .next t) ∧
    { State.reset with rch := rqOf [rspA] }.rch.queue ≠ [] ∧
    (∃ t, exec (.ofEvent .reset []) State.reset = .next t) ∧ State.reset.ech.wait = false :=
  ⟨⟨_, rfl⟩, ⟨_, rfl⟩, by decide, rfl, rfl, rfl, rfl, ⟨_, rfl⟩, by decide, ⟨_, rfl⟩, rfl⟩

theorem witness_PopRemovesHead :
    (scheduled [.popResponse]).rch.busy = false ∧ (scheduled [.popResponse]).rch.queue = [] ∧
    (rqOf [rspA, rspB]).busy = false ∧ (rqOf [rspA, rspB]).queue = rspA :: [rspB] ∧
    (scheduled [.popEvent]).ech.busy = false ∧ (scheduled [.popEvent]).ech.queue = [] ∧
    (eqOf [evtA]).busy = false ∧ (eqOf [evtA]).queue = evtA :: [] := by decide

theorem witness_NextEventReturnsOrWaits :
    (scheduled [.nextEvent]).ech.busy = false ∧ (scheduled [.nextEvent]).ech.queue = [] ∧
    { scheduled [.nextEvent] with ech := eqOf [evtA] }.ech.busy = false ∧
    { scheduled [.nextEvent] with ech := eqOf [evtA] }.ech.queue = evtA :: [] := by decide

theorem witness_SuspendedConsumerHasNoStep :
    { suspended with sched := [.host] }.rch.wait = true ∧ { suspended with sched := [.eventCaller] }.Inv ∧
    { suspended with sched := [.eventCaller] }.ech.wait = true := by decide +kernel

theorem witness_WokenConsumerGetsOldest : woken.Inv ∧ woken.sched = .eventCaller :: [] ∧ woken.ech.woken = true := by
  decide +kernel

/-- A Response to pop, a wait that expires, an Event to pop; the hypotheses are on the move and the schedule alone. -/
theorem witness_ChannelsAreIndependent :
    (∀ m ∈ [Move.popResponse, .host, .timeout], (scheduled [m]).sched = m :: []) ∧
    (∀ m ∈ [Move.nextEvent, .eventCaller, .popEvent], (scheduled [m]).sched = m :: []) := by decide

/-- V58: a pop on RQ and a push on EQ leave the other channel's waiter alone. -/
theorem test_channels_independent :
    (run 1 { scheduled [.popResponse] with rch := rqOf [rspA], ech := { Channel.empty with wait := true } }).map
      (fun s => (s.rch.queue, s.ech.wait)) = some ([], true) := by decide

/-- V66g's bound, met: 220 bytes, with a buffer of exactly their frame's 224. -/
def sending : State := { scheduled [.call (.send (List.replicate 220 0xAA#8))] with encCap := 224 }

theorem witness_CallWritesRequest :
    sending.sched = .call (.send (List.replicate 220 0xAA#8)) :: [] ∧ sending.inflight = .idle ∧
    (Call.send (List.replicate 220 0xAA#8)).fits = true ∧
    4 + (Call.send (List.replicate 220 0xAA#8)).payload.length ≤ sending.encCap ∧ sending.txPort = .accepts ∧
    { sending with txPort := .fails 3 7 }.txPort = .fails 3 7 := by decide +kernel

theorem witness_SecondCommandRefused :
    (awaiting .rssi [] [.call .reset]).inflight = .awaiting .rssi ∧
    (awaiting .rssi [] [.call .reset]).sched = .call .reset :: [] ∧
    (awaiting .rssi [] [.request .shutdown []]).sched = .request .shutdown [] :: [] := by decide

theorem witness_SendOverLimitFaults :
    (scheduled [.call (.send (List.replicate 221 0#8))]).sched = .call (.send (List.replicate 221 0#8)) :: [] ∧
    (scheduled [.call (.send (List.replicate 221 0#8))]).inflight = .idle ∧
    220 < (List.replicate 221 0#8).length := by decide +kernel

theorem witness_HostAwaitsOnEmptyQueue :
    (awaiting .rssi [] [.host]).sched = .host :: [] ∧ (awaiting .rssi [] [.host]).inflight = .awaiting .rssi ∧
    (awaiting .rssi [] [.host]).rch.busy = false ∧ (awaiting .rssi [] [.host]).rch.queue = [] := by decide

/-- For each way of reading the status byte, a success and a failure; the kinds agree, or `accept_any` takes another. -/
theorem witness_SuccessPredicates :
    (∀ c ∈ [Command.send, .reset, .txPower 0x32#8, .channel 0x32#8, .rssi],
      (awaiting c [rspA] [.host]).sched = .host :: [] ∧ (awaiting c [rspA] [.host]).inflight = .awaiting c ∧
      (awaiting c [rspA] [.host]).rch.wait = false ∧ (awaiting c [rspA] [.host]).rch.queue = rspA :: [] ∧
      rspA.data = 0x32#8 :: [] ∧ (awaiting c [rspA] [.host]).cfg.respMismatch = .acceptAny) ∧
    rspA.command = (Command.txPower 0x32#8).expected ∧ (0x32#8) ≠ 0#8 := by decide +kernel

/-- A host that skips Responses of another kind. -/
def skipping : State :=
  { awaiting .rssi [rspA] [.host] with cfg := { Config.reference with respMismatch := .skipUntilMatch } }

theorem witness_MismatchedResponseSkipped :
    skipping.sched = .host :: [] ∧ skipping.inflight = .awaiting .rssi ∧ skipping.rch.wait = false ∧
    skipping.rch.queue = rspA :: [] ∧ skipping.cfg.respMismatch = .skipUntilMatch ∧
    rspA.command ≠ Command.rssi.expected := by decide

theorem witness_EmptyResponseRefused :
    (awaiting .rssi [{ command := .rssi, data := [] }] [.host]).rch.queue = { command := .rssi, data := [] } :: [] ∧
    (awaiting .rssi [{ command := .rssi, data := [] }] [.host]).rch.wait = false ∧
    (awaiting .rssi [{ command := .rssi, data := [] }] [.host]).inflight = .awaiting .rssi ∧
    (awaiting .rssi [{ command := .rssi, data := [] }] [.host]).cfg.respMismatch = .acceptAny := by decide

theorem witness_SendDataErrorIsTotal :
    Config.reference.WellFormed ∧ (0x7B#8) ∉ Config.reference.sdeList ∧
    Config.reference.sdeCodes.payloadInvalid = 0xFF#8 := by decide

theorem witness_TimeoutCancelsWait :
    { suspended with sched := [.timeout] }.sched = .timeout :: [] ∧
    { suspended with sched := [.timeout] }.inflight = .awaiting .rssi ∧
    { suspended with sched := [.timeout] }.cfg.respTimeout = .bounded ∧
    { suspended with sched := [.timeout] }.rch.wait = true ∧ { suspended with sched := [.timeout] }.rch.queue = [] ∧
    { suspended with sched := [.timeout], cfg := { Config.reference with respTimeout := .never } }.cfg.respTimeout =
      .never := by decide

theorem witness_RestartLeavesHalt :
    { scheduled [.restart] with phase := .halt, err := .payloadLength }.sched = .restart :: [] ∧
    { scheduled [.restart] with phase := .halt, err := .payloadLength }.phase = .halt ∧
    (scheduled [.restart]).phase ≠ .halt := by decide

theorem witness_StepKeepsInvariant : heldResponse.Inv ∧ ∃ t, step heldResponse = .next t :=
  ⟨by decide +kernel, ⟨_, rfl⟩⟩

theorem witness_ChannelsAreFifo : ∃ t, runSteps 1 heldResponse = .next t := ⟨_, rfl⟩

theorem witness_FramesBuiltOnlyByIngress :
    ∃ t, step heldResponse = .next t ∧ t.rch.history = heldResponse.rch.history ++ [rspA] := ⟨_, rfl, by decide⟩

theorem witness_CountersNeverDecrease : ∃ t, step (receiving [0xFF#8]) = .next t := ⟨_, rfl⟩

theorem witness_OwnersOnly :
    ∃ t, step { scheduled [.popEvent] with ech := eqOf [evtA] } = .next t ∧ ¬ (scheduled [.popEvent]).ingressNext ∧
      t.ech.out ≠ [] := ⟨_, rfl, by decide, by decide⟩

theorem witness_StatusViewTellsState :
    State.reset.Inv ∧ { State.reset with rch := rqOf [rspA, rspB], ech := eqOf (List.replicate 16 evtA) }.Inv ∧
    { State.reset with phase := .halt, err := .payloadLength }.Inv ∧
    { State.reset with phase := .halt, err := .io 7 }.Inv :=
  ⟨by decide +kernel, by decide +kernel, by decide +kernel, by decide +kernel⟩

theorem witness_HaltLeftOnlyByRestart :
    ∃ t, step { receiving [0x02#8] with phase := .halt, err := .payloadLength } = .next t := ⟨_, rfl⟩

theorem witness_TransmitOnlyByHost :
    ∃ t, step (scheduled [.request .rssi []]) = .next t ∧ t.tx ≠ State.reset.tx := ⟨_, rfl, by decide⟩

theorem witness_ParametersAreConstant : ∃ t, runSteps 1 heldEvent = .next t := ⟨_, rfl⟩

theorem witness_FrameRunsItsInstruction :
    (receiving (frame 0x02#8 [])).phase = .seek ∧ (receiving (frame 0x02#8 [])).sched = [] ∧
    (receiving (frame 0x02#8 [])).rx = (frame 0x02#8 []).map .byte ++ [] ∧
    (receiving (frame 0x81#8 (List.replicate 224 0x02#8))).rx =
      (frame 0x81#8 (List.replicate 224 0x02#8)).map .byte ++ [] ∧
    (List.replicate 224 0x02#8).length ≤ 224 := by decide +kernel

theorem witness_RoundTrip :
    (receiving (frame 0x51#8 [0x32#8])).CfgInv ∧ (receiving (frame 0x51#8 [0x32#8])).phase = .seek ∧
    (receiving (frame 0x51#8 [0x32#8])).sched = [] ∧
    (receiving (frame 0x51#8 [0x32#8])).rx =
      (frame (Config.reference.rsp .transmitPower) [0x32#8]).map .byte ++ [] ∧
    { receiving (frame 0x51#8 [0x32#8]) with rch := rqOf [rspB] }.rch.queue.length < 2 ∧
    Config.reference.evt .wakeup = some 0x8F#8 ∧
    (receiving (frame 0x8F#8 [])).rx = (frame 0x8F#8 []).map .byte ++ [] ∧
    { receiving (frame 0x8F#8 []) with ech := eqOf (List.replicate 15 evtA) }.ech.queue.length < 16 := by decide +kernel

/-- V36. -/
theorem witness_CorruptedFrameSwallowed :
    (receiving [0x02#8, 0x51#8, 0x01#8, 0x32#8, 0x61#8]).phase = .seek ∧
    (receiving [0x02#8, 0x51#8, 0x01#8, 0x32#8, 0x61#8]).sched = [] ∧
    (0x61#8) ≠ checksum (frameBody 0x51#8 [0x32#8]) ∧
    (receiving [0x02#8, 0x51#8, 0x01#8, 0x32#8, 0x61#8]).rx =
      (frameBody 0x51#8 [0x32#8] ++ [0x61#8]).map .byte ++ [] := by decide

end Sys2Proof.Tests
end

section
/-! SUPPORT. What each agent's move can answer next, and which parts of the state it leaves alone: the inversion lemmas that
`Laws/Step.lean` does not state yet. -/

namespace Sys2Proof.Machine

/-! Channels: what the consumer's operations keep. -/

section
variable {K : Type} (c : Channel K)

@[simp] theorem Channel.pop_dropCnt : c.pop.2.dropCnt = c.dropCnt := by
  rcases c.pop_cases with ⟨_, e⟩ | ⟨_, _, _, e⟩ <;> rw [e]

@[simp] theorem Channel.waitAndPop_dropCnt : c.waitAndPop.2.dropCnt = c.dropCnt := by
  rcases c.waitAndPop_cases with ⟨_, e⟩ | ⟨_, _, _, e⟩ <;> rw [e]

@[simp] theorem Channel.pop_busy : c.pop.2.busy = c.busy := by
  rcases c.pop_cases with ⟨_, e⟩ | ⟨_, _, _, e⟩ <;> rw [e]
  rfl

/-- A push raises the drop counter or keeps it. -/
theorem Channel.dropCnt_le_push (cap : Nat) (f : Frame K) : c.dropCnt ≤ (c.push cap f).2.dropCnt := by
  rcases c.push_cases cap f with ⟨_, _, e, _⟩ | ⟨_, e⟩ <;> rw [e]
  · exact BitVec.le_refl _
  · exact le_satInc _

/-- A wake moves the consumer from waiting to woken, so a push never puts one into `wait_and_pop` nor takes one out. -/
@[simp] theorem Channel.push_busy (cap : Nat) (f : Frame K) : (c.push cap f).2.busy = c.busy := by
  rcases c.push_cases cap f with ⟨_, _, _, ⟨_, hw, _, hk⟩ | ⟨_, hw, hk⟩⟩ | ⟨_, e⟩
  · simp [Channel.busy, hw, hk]
  · simp [Channel.busy, hw, hk]
  · rw [e]; rfl

theorem Channel.not_busy_iff : c.busy = false ↔ c.wait = false ∧ c.woken = false := by
  simp [Channel.busy]

end

/-! The moves of the Host and of the EventCaller. -/

section
variable {s t : State}

/-- A Request's meaning, when it answers a next state, writes ENC and extends TX and the results: nothing else. -/
theorem transmit_next {k : Request} {p : List Byte} (h : transmit k p s = .next t) :
    PayloadFits p ∧ 4 + p.length ≤ s.encCap ∧ ∃ w r, t = { s with
      enc := s.enc.writeBlock 0 (frame (s.cfg.req k) p), tx := s.tx ++ w, results := s.results ++ r } := by
  rcases transmit_cases k p s with ⟨_, e⟩ | ⟨_, _, e⟩ | ⟨hp, hc, _, e⟩ | ⟨hp, hc, _, _, _, e⟩ <;> rw [e] at h
  · cases h
  · cases h
  · exact ⟨hp, hc, _, [], by simpa using h.symm⟩
  · exact ⟨hp, hc, _, _, (Host.Outcome.next.inj h).symm⟩

/-- A Request without a method is written only while no command is in flight. -/
theorem hostRequest_next {k : Request} {p : List Byte} (h : hostRequest k p s = .next t) :
    s.inflight = .idle ∧ transmit k p s = .next t := by
  unfold hostRequest at h
  cases hi : s.inflight with
  | idle => exact ⟨rfl, by simpa [hi, exec_ofRequest] using h⟩
  | awaiting c => simp [hi] at h

/-- Everything the expiry of the bounded wait can answer. -/
theorem hostTimeout_next (h : hostTimeout s = .next t) :
    t = s ∨ (s.rch.wait = true ∧ s.rch.queue = [] ∧
      t = { s.answer .timeout with rch := s.rch.cancelWait, inflight := .idle }) := by
  unfold hostTimeout at h
  cases hi : s.inflight with
  | idle => exact .inl (by simpa [hi] using h.symm)
  | awaiting c =>
    simp only [hi] at h
    split at h
    · rename_i hc
      obtain ⟨_, hw, hq⟩ := hc
      exact .inr ⟨hw, hq, (Host.Outcome.next.inj h).symm⟩
    · exact .inl (Host.Outcome.next.inj h).symm

theorem hostPop_next (h : hostPop s = .next t) :
    s.rch.busy = false ∧ t = { s with rch := s.rch.pop.2 } := by
  unfold hostPop at h
  cases hb : s.rch.busy with
  | true => simp [hb] at h
  | false => exact ⟨rfl, by simpa [hb] using h.symm⟩

theorem nextEvent_next (h : nextEvent s = .next t) :
    s.ech.busy = false ∧ t = { s with ech := s.ech.waitAndPop.2 } := by
  unfold nextEvent at h
  cases hb : s.ech.busy with
  | true => simp [hb] at h
  | false => exact ⟨rfl, by simpa [hb] using h.symm⟩

theorem eventPop_next (h : eventPop s = .next t) :
    s.ech.busy = false ∧ t = { s with ech := s.ech.pop.2 } := by
  unfold eventPop at h
  cases hb : s.ech.busy with
  | true => simp [hb] at h
  | false => exact ⟨rfl, by simpa [hb] using h.symm⟩

theorem eventTurn_next (h : eventTurn s = .next t) :
    (s.ech.woken = false ∧ t = s) ∨ (s.ech.woken = true ∧ t = { s with ech := s.ech.waitAndPop.2 }) := by
  unfold eventTurn at h
  cases hk : s.ech.woken with
  | true => exact .inr ⟨rfl, by simpa [hk] using h.symm⟩
  | false => exact .inl ⟨rfl, by simpa [hk] using h.symm⟩

end

end Sys2Proof.Machine
end

section
/-! SUPPORT. Every step keeps the invariant: one lemma for each part of the state that a move replaces, one for each transition of the
ingress machine, one for each agent's move. -/

namespace Sys2Proof.Machine

/-! Channels (`43_channels.md` R231). -/

section
variable {K : Type} {cap : Nat} {c d : Channel K} {f : Frame K}

theorem Channel.Inv.push (h : c.Inv cap) (hf : f.data.length ≤ Config.maxPayloadLen) : (c.push cap f).2.Inv cap := by
  obtain ⟨hcap, hlen, hwait, hwoken⟩ := h
  rcases c.push_cases cap f with ⟨hroom, hq, _, hw⟩ | ⟨_, e⟩
  · have hcap' : (c.push cap f).2.queue.length ≤ cap := by rw [hq]; simpa using hroom
    have hlen' : ∀ g ∈ (c.push cap f).2.queue, g.data.length ≤ Config.maxPayloadLen := by
      rw [hq]
      simpa [or_imp, forall_and] using ⟨hlen, hf⟩
    refine ⟨hcap', hlen', ?_⟩
    rcases hw with ⟨_, _, hw, _⟩ | ⟨hne, hw, hk⟩
    · simp [hq, hw]
    · have hnw : c.wait = false := by
        rcases hne with hne | hne
        · simpa using fun hw => hne (hwait hw)
        · exact hne
      simp [hq, hw, hnw]
  · rw [e]
    exact ⟨hcap, hlen, hwait, hwoken⟩

/-- Taking the head leaves a channel whose consumer is outside `wait_and_pop`. -/
theorem Channel.Inv.of_dequeue (h : c.Inv cap) (hq : c.queue = f :: d.queue) (hwait : d.wait = c.wait)
    (hwoken : d.woken = false) : d.Inv cap := by
  obtain ⟨hcap, hlen, hw, _⟩ := h
  rw [hq] at hcap hlen hw
  have hdw : d.wait = false := by simpa [hwait] using hw
  refine ⟨Nat.le_of_succ_le hcap, fun g hg => hlen g (List.mem_cons_of_mem _ hg), ?_, ?_⟩
  · simp [hdw]
  · simp [hwoken]

/-- Suspending the consumer on an empty queue. -/
theorem Channel.Inv.of_suspend (hq : d.queue = []) (hwoken : d.woken = false) : d.Inv cap := by
  simp [Channel.Inv, hq, hwoken]

theorem Channel.Inv.pop (h : c.Inv cap) (hb : c.busy = false) : c.pop.2.Inv cap := by
  rcases c.pop_cases with ⟨_, e⟩ | ⟨f, q, hq, e⟩ <;> rw [e]
  · exact h
  · exact h.of_dequeue hq rfl (c.not_busy_iff.1 hb).2

theorem Channel.Inv.waitAndPop (h : c.Inv cap) : c.waitAndPop.2.Inv cap := by
  rcases c.waitAndPop_cases with ⟨hq, e⟩ | ⟨f, q, hq, e⟩ <;> rw [e]
  · exact .of_suspend hq rfl
  · exact h.of_dequeue hq rfl rfl

theorem Channel.Inv.cancelWait (h : c.Inv cap) : c.cancelWait.Inv cap := by
  obtain ⟨hcap, hlen, _, hwoken⟩ := h
  exact ⟨hcap, hlen, by simp [Channel.cancelWait], fun hk => ⟨(hwoken hk).1, rfl⟩⟩

/-- A consumer that waits is not woken, so cancelling its wait leaves it outside `wait_and_pop`. -/
theorem Channel.Inv.cancelWait_not_busy (h : c.Inv cap) (hw : c.wait = true) : c.cancelWait.busy = false := by
  obtain ⟨_, _, _, hwoken⟩ := h
  have hk : c.woken = false := by
    by_contra hk
    simpa [hw] using (hwoken (by simpa using hk)).2
  simp [Channel.busy, Channel.cancelWait, hk]

end

/-! The candidate (`10_state.md` R30 (v)). -/

section
variable {s t : State}

theorem candidate_cmd (hp : s.phase = .cmd) : s.candidate = some [Config.startByte] := by
  simp [State.candidate, hp]

theorem candidate_len (hp : s.phase = .len) : s.candidate = some [Config.startByte, s.cmd] := by
  simp [State.candidate, hp]

theorem candidate_payload (hp : s.phase = .payload ∨ s.phase = .chk) :
    s.candidate = (s.buf.readBlock 0 s.idx.toNat).map (fun d => Config.startByte :: s.cmd :: s.len :: d) := by
  rcases hp with hp | hp <;> simp [State.candidate, hp]

/-- ACC stays the exclusive-or of the candidate when both take one byte. -/
theorem candidate_checksum_append {b : Byte} (h : s.candidate.map checksum = some s.acc)
    (hc : t.candidate = s.candidate.map (· ++ [b])) (ha : t.acc = s.acc ^^^ b) :
    t.candidate.map checksum = some t.acc := by
  obtain ⟨w, hw, hacc⟩ := Option.map_eq_some_iff.1 h
  rw [hc, ha, hw, ← hacc]
  simp [checksum_append]

/-- Outside a candidate nothing is asked of LEN, IDX and ACC. -/
theorem State.Inv.of_no_candidate (hp : t.phase = .seek ∨ t.phase = .halt) (hH : t.HaltInv) (hC : t.ChannelInv)
    (hW : t.WaitInv) (hM : t.MemInv) (hG : t.CfgInv) : t.Inv := by
  refine ⟨hH, ?_, ?_, hC, hW, hM, hG⟩
  · rcases hp with hp | hp <;> simp [State.LenInv, hp]
  · rcases hp with hp | hp <;> simp [State.AccInv, hp]

/-- A running machine has no error latched. -/
theorem State.HaltInv.err_none (h : s.HaltInv) (hp : s.phase ≠ .halt) : s.err = .none := by
  by_contra he
  exact hp (h.2 he)

/-- Another running phase keeps the latch empty. -/
theorem State.HaltInv.of_running (h : s.HaltInv) (hp : s.phase ≠ .halt) (hp' : t.phase ≠ .halt) (he : t.err = s.err) :
    t.HaltInv := by
  simp [State.HaltInv, hp', he, h.err_none hp]

end

/-! The transitions of the ingress machine. -/

section
variable {s t : State}

theorem State.Inv.startCandidate (h : s.Inv) (hp : s.phase = .seek) : s.startCandidate.Inv := by
  obtain ⟨hH, _, _, hC, hW, hM, hG⟩ := h
  have hH' : s.startCandidate.HaltInv := hH.of_running (by simp [hp]) (by simp) (by simp)
  refine ⟨hH', ⟨by simp, by simp⟩, fun _ => ?_, hC, hW, hM, hG⟩
  simp [candidate_cmd (s := s.startCandidate) rfl]

theorem State.Inv.takeCommand (h : s.Inv) (hp : s.phase = .cmd) (b : Byte) : (s.takeCommand b).Inv := by
  obtain ⟨hH, _, hA, hC, hW, hM, hG⟩ := h
  have hH' : (s.takeCommand b).HaltInv := hH.of_running (by simp [hp]) (by simp) (by simp)
  refine ⟨hH', ⟨by simp, by simp⟩, fun _ => ?_, hC, hW, hM, hG⟩
  refine candidate_checksum_append (hA (by simp [hp])) ?_ rfl
  simp [candidate_len (s := s.takeCommand b) rfl, candidate_cmd hp]

theorem State.Inv.takeLength (h : s.Inv) (hp : s.phase = .len) {b : Byte} (hb : b.toNat ≤ Config.maxPayloadLen) :
    (s.takeLength b).Inv := by
  obtain ⟨hH, _, hA, hC, hW, hM, hG⟩ := h
  have hp' : (s.takeLength b).phase = .payload ∨ (s.takeLength b).phase = .chk := by
    by_cases h0 : b = 0#8 <;> simp [h0]
  have hH' : (s.takeLength b).HaltInv :=
    hH.of_running (by simp [hp]) (by rcases hp' with e | e <;> rw [e] <;> decide) (by simp)
  have hL' : (s.takeLength b).LenInv := by
    by_cases h0 : b = 0#8
    · simp [State.LenInv, h0]
    · have hpos : b.toNat ≠ 0 := fun e => h0 (BitVec.eq_of_toNat_eq (by simpa using e))
      simpa [State.LenInv, h0] using ⟨hb, by omega⟩
  refine ⟨hH', hL', fun _ => ?_, hC, hW, hM, hG⟩
  refine candidate_checksum_append (hA (by simp [hp])) ?_ rfl
  simp [candidate_payload hp', candidate_len hp, Memory.readBlock]

/-- The state after a payload byte is stored (`41_ingress.md` R155). -/
def State.stored (b : Byte) (s : State) : State :=
  { s with
    buf := s.buf.write s.idx.toNat b, acc := s.acc ^^^ b, idx := s.idx + 1#8
    phase := if s.idx + 1#8 = s.len then .chk else .payload }

theorem State.storePayload_eq_stored {b : Byte} (h : s.idx.toNat < Config.maxPayloadLen) :
    s.storePayload b = .next (s.stored b) := if_pos h

theorem State.Inv.stored (h : s.Inv) (hp : s.phase = .payload) (b : Byte) : (s.stored b).Inv := by
  obtain ⟨hH, hL, hA, hC, hW, hM, hG⟩ := h
  obtain ⟨hlen, hidx⟩ := hL.1 hp
  obtain ⟨hbw, hbn, hew, hen⟩ := hM
  have hlen' : s.len.toNat ≤ 224 := hlen
  have hsucc : (s.idx + 1#8).toNat = s.idx.toNat + 1 := byte_succ_toNat (by omega)
  have hp' : (s.stored b).phase = .payload ∨ (s.stored b).phase = .chk := by
    by_cases he : s.idx + 1#8 = s.len <;> simp [State.stored, he]
  have hH' : (s.stored b).HaltInv :=
    hH.of_running (by simp [hp]) (by rcases hp' with e | e <;> rw [e] <;> decide) rfl
  have hL' : (s.stored b).LenInv := by
    by_cases he : s.idx + 1#8 = s.len
    · simpa [State.LenInv, State.stored, he] using hlen
    · have hne : s.idx.toNat + 1 ≠ s.len.toNat := fun e => he (BitVec.eq_of_toNat_eq (hsucc.trans e))
      simpa [State.LenInv, State.stored, he, hsucc] using ⟨hlen, by omega⟩
  have hA' : (s.stored b).AccInv := fun _ => by
    have hacc := hA (by simp [hp])
    refine candidate_checksum_append hacc ?_ rfl
    rw [candidate_payload (.inl hp)] at hacc
    obtain ⟨d, hd⟩ : ∃ d, s.buf.readBlock 0 s.idx.toNat = some d := by
      cases hd : s.buf.readBlock 0 s.idx.toNat with
      | none => simp [hd] at hacc
      | some d => exact ⟨d, rfl⟩
    have hd' : (s.stored b).buf.readBlock 0 (s.stored b).idx.toNat = some (d ++ [b]) :=
      hsucc ▸ s.buf.readBlock_write_next b hd
    rw [candidate_payload hp', candidate_payload (.inl hp), hd, hd']
    rfl
  have hM' : (s.stored b).MemInv :=
    ⟨s.buf.wf_write _ b hbw, s.buf.within_write b hbn (Nat.lt_of_lt_of_le hidx hlen), hew, hen⟩
  exact ⟨hH', hL', hA', hC, hW, hM', hG⟩

theorem State.Inv.halt (h : s.Inv) {e : Err} (he : e ≠ .none) : (s.halt e).Inv := by
  obtain ⟨_, _, _, hC, hW, hM, hG⟩ := h
  exact .of_no_candidate (.inr rfl) (by simpa [State.HaltInv] using he) hC hW hM hG

/-- A running machine that returns to SEEK, whatever became of the candidate (`41_ingress.md` R156, R157). -/
theorem State.Inv.to_seek (h : s.Inv) (hp : s.phase ≠ .halt) (hp' : t.phase = .seek) (he : t.err = s.err)
    (hC : t.ChannelInv) (hW : t.WaitInv) (hM : t.MemInv) (hG : t.CfgInv) : t.Inv := by
  obtain ⟨hH, _⟩ := h
  exact .of_no_candidate (.inl hp') (hH.of_running hp (by simp [hp']) he) hC hW hM hG

theorem State.Inv.discardCandidate (h : s.Inv) (hp : s.phase ≠ .halt) : s.discardCandidate.Inv := by
  have ⟨_, _, _, hC, hW, hM, hG⟩ := h
  exact h.to_seek hp rfl rfl hC hW hM hG

/-- Routing an accepted frame: its data is `BUF[0..LEN)`, so it meets the frame bound (`42_classify_route.md` R204 to R207). -/
theorem State.Inv.accept (h : s.Inv) (hp : s.phase = .chk) {d : List Byte}
    (hd : s.buf.readBlock 0 s.len.toNat = some d) (ht : exec (acceptedInstr s.cfg s.cmd d) s = .next t) : t.Inv := by
  have ⟨_, hL, _, ⟨hR, hE⟩, hW, hM, hG⟩ := h
  have hp' : s.phase ≠ .halt := by simp [hp]
  have hfit : d.length ≤ Config.maxPayloadLen := Memory.readBlock_length hd ▸ (hL.2 hp).1
  rcases exec_accepted_cases s.cmd d hp' with ⟨k, _, e⟩ | ⟨k, _, e⟩ | ⟨_, e⟩
    <;> rw [e] at ht <;> obtain rfl := Host.Outcome.next.inj ht
  · exact h.to_seek hp' rfl rfl ⟨hR.push hfit, hE⟩ (by simpa [State.WaitInv] using hW) hM hG
  · exact h.to_seek hp' rfl rfl ⟨hR, hE.push hfit⟩ hW hM hG
  · exact h.to_seek hp' rfl rfl ⟨hR, hE⟩ hW hM hG

theorem State.Inv.ingressStep {sym : Symbol} (h : s.Inv) (hp : s.phase ≠ .halt) (ht : ingressStep sym s = .next t) :
    t.Inv := by
  rcases ingressStep_next hp ht with ⟨e, _, rfl⟩ | ⟨b, _, hb⟩
  · exact h.halt (by simp)
  rcases hb with ⟨hs, _, rfl⟩ | ⟨_, _, rfl⟩ | ⟨hc, rfl⟩ | ⟨_, _, rfl⟩ | ⟨hl, hb, rfl⟩ | ⟨hpl, _, rfl⟩ |
    ⟨_, _, rfl⟩ | ⟨hk, _, d, hd, ht⟩
  · exact h.startCandidate hs
  · exact h
  · exact h.takeCommand hc b
  · exact h.halt (by simp)
  · exact h.takeLength hl hb
  · exact h.stored hpl b
  · exact h.discardCandidate hp
  · exact h.accept hk hd ht

end

/-! The other agents' moves. -/

section
variable {s t : State}

theorem State.Inv.rch (h : s.Inv) : s.rch.Inv Config.respDepth := by
  obtain ⟨_, _, _, ⟨hR, _⟩, _⟩ := h
  exact hR

theorem State.Inv.ech (h : s.Inv) : s.ech.Inv Config.evtDepth := by
  obtain ⟨_, _, _, ⟨_, hE⟩, _⟩ := h
  exact hE

/-- A move of the Host that replaces only the Response channel, INFLIGHT and the results. -/
theorem State.Inv.of_host (h : s.Inv) (ht : t = { s with rch := t.rch, inflight := t.inflight, results := t.results })
    (hc : t.rch.Inv Config.respDepth) (hw : t.WaitInv) : t.Inv := by
  obtain ⟨hH, hL, hA, ⟨_, hE⟩, _, hM, hG⟩ := h
  rw [ht]
  exact ⟨hH, hL, hA, ⟨hc, hE⟩, hw, hM, hG⟩

/-- Another Event channel. -/
theorem State.Inv.with_ech (h : s.Inv) {c : Channel Event} (hc : c.Inv Config.evtDepth) : { s with ech := c }.Inv := by
  obtain ⟨hH, hL, hA, ⟨hR, _⟩, hW, hM, hG⟩ := h
  exact ⟨hH, hL, hA, ⟨hR, hc⟩, hW, hM, hG⟩

/-- A command that begins does not disturb a Host outside its wait. -/
theorem State.Inv.with_awaiting (h : s.Inv) (c : Command) : { s with inflight := .awaiting c }.Inv := by
  obtain ⟨hH, hL, hA, hC, _, hM, hG⟩ := h
  exact ⟨hH, hL, hA, hC, fun _ => by simp, hM, hG⟩

/-- The encoded frame fits the caller's buffer, so ENC stays inside it (`20_memory.md` R64). -/
theorem State.Inv.transmit {k : Request} {p : List Byte} (h : s.Inv) (ht : transmit k p s = .next t) : t.Inv := by
  obtain ⟨_, hcap, w, r, rfl⟩ := transmit_next ht
  obtain ⟨hH, hL, hA, hC, hW, ⟨hbw, hbn, hew, hen⟩, hG⟩ := h
  refine ⟨hH, hL, hA, hC, hW, ⟨hbw, hbn, ?_, ?_⟩, hG⟩
  · exact s.enc.wf_writeBlock _ _ hew
  · exact s.enc.within_writeBlock _ hen (by simpa [Nat.add_comm] using hcap)

theorem State.Inv.hostCall {c : Call} (h : s.Inv) (ht : hostCall c s = .next t) : t.Inv := by
  obtain ⟨_, _, u, hu, ⟨_, rfl⟩ | ⟨_, _, _, rfl⟩⟩ := hostCall_next ht
  · exact (h.transmit hu).with_awaiting _
  · exact h.transmit hu

theorem State.Inv.hostTurn (h : s.Inv) (ht : hostTurn s = .next t) : t.Inv := by
  rcases hostTurn_next ht with ⟨rfl, _⟩ | ⟨c, hi, hw, ⟨hq, rfl⟩ | ⟨f, q, hq, hf⟩⟩
  · exact h
  · exact h.of_host rfl (.of_suspend hq rfl) (fun _ => by simp [hi])
  · have hdeq : Channel.Inv Config.respDepth
        { s.rch with queue := q, woken := false, out := s.rch.out ++ [f] } := h.rch.of_dequeue hq rfl rfl
    rcases hostInterpret_next hf with ⟨_, _, rfl⟩ | ⟨b, d, _, rfl⟩
    · exact h.of_host rfl hdeq (by simp [State.WaitInv, Channel.busy, hw])
    · exact h.of_host rfl hdeq (by simp [State.WaitInv, Channel.busy, hw])

theorem State.Inv.hostTimeout (h : s.Inv) (ht : hostTimeout s = .next t) : t.Inv := by
  rcases hostTimeout_next ht with rfl | ⟨hw, _, rfl⟩
  · exact h
  · exact h.of_host rfl h.rch.cancelWait (by simp [State.WaitInv, h.rch.cancelWait_not_busy hw])

theorem State.Inv.hostPop (h : s.Inv) (ht : hostPop s = .next t) : t.Inv := by
  obtain ⟨hb, rfl⟩ := hostPop_next ht
  exact h.of_host rfl (h.rch.pop hb) (by simp [State.WaitInv, hb])

theorem State.Inv.restart (h : s.Inv) : s.restart.Inv := by
  by_cases hp : s.phase = .halt
  · have ⟨_, _, _, hC, hW, ⟨_, _, hew, hen⟩, hG⟩ := h
    rw [restart_halted s hp]
    exact .of_no_candidate (.inl rfl) (by simp [State.HaltInv]) hC hW ⟨.nil, by simp, hew, hen⟩ hG
  · rwa [restart_running s hp]

theorem State.Inv.supplyBuffer (h : s.Inv) (bytes : List Byte) : (supplyBuffer bytes s).Inv := by
  obtain ⟨hH, hL, hA, hC, hW, ⟨hbw, hbn, _, _⟩, hG⟩ := h
  refine ⟨hH, hL, hA, hC, hW, ⟨hbw, hbn, ?_, ?_⟩, hG⟩
  · exact Memory.wf_writeBlock [] _ _ .nil
  · exact Memory.within_writeBlock [] _ (by simp) (Nat.zero_add _).le

/-- Every move of an agent other than the ingress machine keeps the invariant. -/
theorem State.Inv.runMove {m : Move} (h : s.Inv) (hm : m ≠ .ingress) (ht : runMove m s = .next t) : t.Inv := by
  cases m with
  | ingress => exact absurd rfl hm
  | device sym => obtain rfl := Host.Outcome.next.inj ht; exact h
  | transport a => obtain rfl := Host.Outcome.next.inj ht; exact h
  | buffer bytes => obtain rfl := Host.Outcome.next.inj ht; exact h.supplyBuffer bytes
  | request k p => exact h.transmit (hostRequest_next ht).2
  | call c => exact h.hostCall ht
  | host => exact h.hostTurn ht
  | timeout => exact h.hostTimeout ht
  | popResponse => exact h.hostPop ht
  | nextEvent => obtain ⟨_, rfl⟩ := nextEvent_next ht; exact h.with_ech h.ech.waitAndPop
  | eventCaller =>
    rcases eventTurn_next ht with ⟨_, rfl⟩ | ⟨_, rfl⟩
    · exact h
    · exact h.with_ech h.ech.waitAndPop
  | popEvent => obtain ⟨hb, rfl⟩ := eventPop_next ht; exact h.with_ech (h.ech.pop hb)
  | restart => obtain rfl := Host.Outcome.next.inj ht; exact h.restart

/-- The invariant reads neither the schedule nor RX. -/
theorem State.Inv.step (h : s.Inv) (ht : step s = .next t) : t.Inv := by
  rcases step_kinds s with ⟨sym, ⟨_, hp, _⟩, e⟩ | ⟨_, _, e⟩ | ⟨m, ms, _, hm, e⟩ <;> rw [e] at ht
  · have htaken : s.taken.Inv := h
    exact htaken.ingressStep hp ht
  · obtain rfl := Host.Outcome.next.inj ht
    exact h
  · have hturn : { s with sched := ms }.Inv := h
    exact hturn.runMove hm ht

end

/-- Settles O48: a step is the ingress machine taking a symbol, an idle turn, or another agent's move, and each keeps the
invariant. -/
theorem stepKeepsInvariant : Obligations.StepKeepsInvariant := fun _ _ h ht => h.step ht

/-- Settles O49: at reset no candidate is held, nothing is queued, no memory holds a byte, and the reference tables meet
their constraints. -/
theorem resetMeetsInvariant : Obligations.ResetMeetsInvariant := by
  have hG : Config.reference.WellFormed := by decide
  exact .of_no_candidate (.inl rfl) (by decide) (by decide) (by decide) (by decide) hG

end Sys2Proof.Machine
end

section
/-! SUPPORT. What a step does to the counters, the values at reset, and what the status view tells. -/

namespace Sys2Proof.Machine

section
variable {s t : State}

/-- The saturating increment as a formula (`10_state.md` R36). -/
theorem satInc_toNat (c : Count) : (satInc c).toNat = min (c.toNat + 1) (2 ^ 32 - 1) := by
  have hlt : c.toNat < 2 ^ 32 := c.isLt
  unfold satInc
  split
  · rename_i hc
    simp [hc, Config.cntW]
  · rename_i hc
    have hne : c.toNat ≠ 2 ^ 32 - 1 := fun e => hc (BitVec.eq_of_toNat_eq (by simpa [Config.cntW] using e))
    have hsucc : (c + 1#Config.cntW).toNat = c.toNat + 1 := by
      simp only [BitVec.toNat_add, Config.cntW, BitVec.toNat_one (show 0 < 32 by decide)]
      exact Nat.mod_eq_of_lt (by omega)
    omega

/-- No counter of `t` is below the counter of `s` (`10_state.md` R36). -/
abbrev State.CountersLe (s t : State) : Prop :=
  s.rch.dropCnt ≤ t.rch.dropCnt ∧ s.ech.dropCnt ≤ t.ech.dropCnt ∧ s.chkerrCnt ≤ t.chkerrCnt ∧
  s.unknownCnt ≤ t.unknownCnt ∧ s.resyncCnt ≤ t.resyncCnt

/-- The five counters are the same (`10_state.md` R36). -/
abbrev State.SameCounters (s t : State) : Prop :=
  t.rch.dropCnt = s.rch.dropCnt ∧ t.ech.dropCnt = s.ech.dropCnt ∧ t.chkerrCnt = s.chkerrCnt ∧
  t.unknownCnt = s.unknownCnt ∧ t.resyncCnt = s.resyncCnt

theorem State.SameCounters.refl (s : State) : s.SameCounters s := ⟨rfl, rfl, rfl, rfl, rfl⟩

theorem State.SameCounters.le (h : s.SameCounters t) : s.CountersLe t := by
  obtain ⟨hr, he, hk, hu, hs⟩ := h
  exact ⟨hr ▸ BitVec.le_refl _, he ▸ BitVec.le_refl _, hk ▸ BitVec.le_refl _, hu ▸ BitVec.le_refl _,
    hs ▸ BitVec.le_refl _⟩

/-- The ingress machine counts upwards: by the saturating increment, or in a drop. -/
theorem countersLe_ingressStep {sym : Symbol} (hp : s.phase ≠ .halt) (ht : ingressStep sym s = .next t) :
    s.CountersLe t := by
  have same : s.SameCounters s := .refl s
  have ⟨hr, he, hk, hu, hs⟩ := same.le
  rcases ingressStep_next hp ht with ⟨_, _, rfl⟩ | ⟨b, _, hb⟩
  · exact same.le
  rcases hb with ⟨_, _, rfl⟩ | ⟨_, _, rfl⟩ | ⟨_, rfl⟩ | ⟨_, _, rfl⟩ | ⟨_, _, rfl⟩ | ⟨_, _, rfl⟩ |
    ⟨_, _, rfl⟩ | ⟨_, _, d, _, ht⟩
  · exact same.le
  · exact ⟨hr, he, hk, hu, le_satInc _⟩
  · exact same.le
  · exact same.le
  · exact same.le
  · exact same.le
  · exact ⟨hr, he, le_satInc _, hu, hs⟩
  · rcases exec_accepted_cases s.cmd d hp with ⟨k, _, e⟩ | ⟨k, _, e⟩ | ⟨_, e⟩
      <;> rw [e] at ht <;> obtain rfl := Host.Outcome.next.inj ht
    · exact ⟨Channel.dropCnt_le_push _ _ _, he, hk, hu, hs⟩
    · exact ⟨hr, Channel.dropCnt_le_push _ _ _, hk, hu, hs⟩
    · exact ⟨hr, he, hk, le_satInc _, hs⟩

theorem transmit_sameCounters {k : Request} {p : List Byte} (ht : transmit k p s = .next t) : s.SameCounters t := by
  obtain ⟨_, _, w, r, rfl⟩ := transmit_next ht
  exact .refl s

theorem hostTurn_sameCounters (ht : hostTurn s = .next t) : s.SameCounters t := by
  rcases hostTurn_next ht with ⟨rfl, _⟩ | ⟨c, _, _, ⟨_, rfl⟩ | ⟨f, q, _, hf⟩⟩
  · exact .refl _
  · exact .refl s
  · rcases hostInterpret_next hf with ⟨_, _, rfl⟩ | ⟨_, _, _, rfl⟩ <;> exact .refl s

/-- Only the ingress machine counts: every other agent's move leaves the five counters alone. -/
theorem runMove_sameCounters {m : Move} (hm : m ≠ .ingress) (ht : runMove m s = .next t) : s.SameCounters t := by
  have same : s.SameCounters s := .refl s
  cases m with
  | ingress => exact absurd rfl hm
  | device sym => obtain rfl := Host.Outcome.next.inj ht; exact same
  | transport a => obtain rfl := Host.Outcome.next.inj ht; exact same
  | buffer bytes => obtain rfl := Host.Outcome.next.inj ht; exact same
  | request k p => exact transmit_sameCounters (hostRequest_next ht).2
  | call c =>
    obtain ⟨_, _, u, hu, ht⟩ := hostCall_next ht
    have hsame : s.SameCounters u := transmit_sameCounters hu
    rcases ht with ⟨_, rfl⟩ | ⟨_, _, _, rfl⟩ <;> exact hsame
  | host => exact hostTurn_sameCounters ht
  | timeout => rcases hostTimeout_next ht with rfl | ⟨_, _, rfl⟩ <;> exact same
  | popResponse => obtain ⟨_, rfl⟩ := hostPop_next ht; simp [State.SameCounters]
  | nextEvent => obtain ⟨_, rfl⟩ := nextEvent_next ht; simp [State.SameCounters]
  | eventCaller => rcases eventTurn_next ht with ⟨_, rfl⟩ | ⟨_, rfl⟩ <;> simp [State.SameCounters]
  | popEvent => obtain ⟨_, rfl⟩ := eventPop_next ht; simp [State.SameCounters]
  | restart =>
    obtain rfl := Host.Outcome.next.inj ht
    by_cases hp : s.phase = .halt
    · rw [restart_halted s hp]; exact same
    · rw [restart_running s hp]; exact same

theorem countersLe_step (ht : step s = .next t) : s.CountersLe t := by
  rcases step_kinds s with ⟨sym, ⟨_, hp, _⟩, e⟩ | ⟨_, _, e⟩ | ⟨m, ms, _, hm, e⟩ <;> rw [e] at ht
  · exact countersLe_ingressStep (s := s.taken) hp ht
  · obtain rfl := Host.Outcome.next.inj ht
    exact (State.SameCounters.refl s).le
  · exact (runMove_sameCounters (s := { s with sched := ms }) hm ht).le

end

/-- Settles O52: the saturating increment by its formula; a step counts only in the ingress machine, and there upwards. -/
theorem countersNeverDecrease : Obligations.CountersNeverDecrease := ⟨satInc_toNat, fun _ _ => countersLe_step⟩

/-- Settles O47: each value is a field of the reset state. -/
theorem resetValues : Obligations.ResetValues := by
  simp [Obligations.ResetValues, State.reset, Channel.empty]

/-! The status view (`10_state.md` R38) and the ingress result (R29). -/

theorem Phase.code_eq_halt_iff (p : Phase) : p.code = 7#3 ↔ p = .halt := by cases p <;> decide

theorem Err.code_eq_zero_iff (e : Err) : e.code = 0#2 ↔ e = .none := by cases e <;> simp [Err.code]

theorem Err.code_eq_one_iff (e : Err) : e.code = 1#2 ↔ e = .payloadLength := by cases e <;> simp [Err.code]

theorem Err.code_eq_two_iff (e : Err) : e.code = 2#2 ↔ ∃ i, e = .io i := by cases e <;> simp [Err.code]

section
variable {s : State}

theorem State.halted_iff : s.halted = true ↔ s.phase = .halt := by simp [State.halted]

theorem State.ingressResult_running_iff : s.ingressResult = .running ↔ s.err = .none := by
  cases h : s.err <;> simp [State.ingressResult, h]

theorem State.ingressResult_payloadLength_iff : s.ingressResult = .errPayloadLength ↔ s.err = .payloadLength := by
  cases h : s.err <;> simp [State.ingressResult, h]

theorem State.ingressResult_io_iff {e : IoError} : s.ingressResult = .errIo e ↔ s.err = .io e := by
  cases h : s.err <;> simp [State.ingressResult, h]

/-- The 2 bits of ST_RCOUNT and the 5 bits of ST_ECOUNT hold every queue length the capacities allow. -/
theorem status_counts (h : s.ChannelInv) :
    s.status.stRCount.toNat = s.rch.queue.length ∧ s.status.stECount.toNat = s.ech.queue.length := by
  obtain ⟨⟨hr, _⟩, ⟨he, _⟩⟩ := h
  have hr' : s.rch.queue.length ≤ 2 := hr
  have he' : s.ech.queue.length ≤ 16 := he
  simp only [State.status, BitVec.toNat_ofNat]
  omega

/-- A halt shows in ST_PHASE, in ST_ERR and in the ingress result together. -/
theorem status_halt (h : s.HaltInv) :
    (s.halted = true ↔ s.status.stPhase = 7#3) ∧ (s.halted = true ↔ s.status.stErr ≠ 0#2) ∧
    (s.halted = true ↔ s.ingressResult ≠ .running) := by
  refine ⟨?_, ?_, ?_⟩ <;> rw [State.halted_iff]
  · exact s.phase.code_eq_halt_iff.symm
  · exact h.trans (not_congr s.err.code_eq_zero_iff.symm)
  · exact h.trans (not_congr State.ingressResult_running_iff.symm)

/-- The cause of a halt is told apart by ST_ERR as by the ingress result. -/
theorem status_cause :
    (s.status.stErr = 1#2 ↔ s.ingressResult = .errPayloadLength) ∧
    (s.status.stErr = 2#2 ↔ ∃ e, s.ingressResult = .errIo e) := by
  refine ⟨?_, ?_⟩
  · exact s.err.code_eq_one_iff.trans State.ingressResult_payloadLength_iff.symm
  · simp only [State.ingressResult_io_iff]
    exact s.err.code_eq_two_iff

end

/-- Settles O54: the counts by the channels' capacities, the halt by the latch's invariant, the rest by the view's fields. -/
theorem statusViewTellsState : Obligations.StatusViewTellsState := by
  intro s ⟨hH, _, _, hC, _⟩
  obtain ⟨hrc, hec⟩ := status_counts hC
  obtain ⟨hph, her, hres⟩ := status_halt hH
  obtain ⟨hlen, hio⟩ := status_cause (s := s)
  refine ⟨rfl, rfl, rfl, rfl, rfl, rfl, hrc, hec, ?_, ?_, ?_, ?_, rfl, rfl, hph, her, hres, hlen, hio⟩
  · simp [State.status, State.rEmpty]
  · simp [State.status, State.rFull]
  · simp [State.status, State.eEmpty]
  · simp [State.status, State.eFull]

end Sys2Proof.Machine
end

section
/-! SUPPORT. The transmit stream, and the fetch: which moves write TX, what the receive decoder can answer, and which candidate stands
behind each answer. -/

namespace Sys2Proof

/-- Everything the receive decoder can accept: a byte outside a frame, a header with an illegal LENGTH, or a whole frame
(`41_ingress.md` R152, R158, R156). -/
theorem decodeRx_ok {cfg : Config} {w rest : List Byte} {i : Instr} (h : decodeRx cfg w = .ok (i, rest)) :
    (∃ b, b ≠ Config.startByte ∧ w = b :: rest ∧ i = .rxResyncByte b) ∨
    (∃ c l, Config.maxPayloadLen < l.toNat ∧ w = Config.startByte :: c :: l :: rest ∧ i = .rxIllegalLength c l) ∨
    (∃ c p, PayloadFits p ∧ w = frame c p ++ rest ∧ i = acceptedInstr cfg c p) := by
  cases w with
  | nil => simp [decodeRx] at h
  | cons b w =>
    by_cases hb : b = Config.startByte
    · subst hb
      cases hs : splitFrame (Config.startByte :: w) with
      | ok x =>
        obtain ⟨c, p, after⟩ := x
        obtain ⟨rfl, rfl⟩ : acceptedInstr cfg c p = i ∧ after = rest := by simpa [decodeRx, hs] using h
        obtain ⟨hp, hw⟩ := splitFrame_ok hs
        exact .inr (.inr ⟨c, p, hp, hw, rfl⟩)
      | error e =>
        by_cases he : e = .payloadLength
        · obtain ⟨c, l, after, hw, hl⟩ := splitFrame_payloadLength (he ▸ hs)
          obtain ⟨_, rfl⟩ := List.cons.inj hw
          obtain ⟨rfl, rfl⟩ : Instr.rxIllegalLength c l = i ∧ after = rest := by simpa [decodeRx, hs, he] using h
          exact .inr (.inl ⟨c, l, hl, rfl, rfl⟩)
        · simp [decodeRx, hs] at h
    · obtain ⟨rfl, rfl⟩ : Instr.rxResyncByte b = i ∧ w = rest := by simpa [decodeRx, hb] using h
      exact .inl ⟨b, hb, rfl, rfl⟩

end Sys2Proof

namespace Sys2Proof.Machine

section
variable {s t : State}

/-! The transmit stream (`20_memory.md` R62). -/

theorem transmit_tx_prefix {k : Request} {p : List Byte} (ht : transmit k p s = .next t) : s.tx <+: t.tx := by
  obtain ⟨_, _, w, _, rfl⟩ := transmit_next ht
  exact List.prefix_append s.tx w

theorem ingressStep_tx {sym : Symbol} (hp : s.phase ≠ .halt) (ht : ingressStep sym s = .next t) : t.tx = s.tx := by
  rcases ingressStep_next hp ht with ⟨_, _, rfl⟩ | ⟨b, _, hb⟩
  · rfl
  rcases hb with ⟨_, _, rfl⟩ | ⟨_, _, rfl⟩ | ⟨_, rfl⟩ | ⟨_, _, rfl⟩ | ⟨_, _, rfl⟩ | ⟨_, _, rfl⟩ |
    ⟨_, _, rfl⟩ | ⟨_, _, d, _, ht⟩
  case inr.inr.inr.inr.inr.inr.inr =>
    rcases exec_accepted_cases s.cmd d hp with ⟨_, _, e⟩ | ⟨_, _, e⟩ | ⟨_, e⟩
      <;> rw [e] at ht <;> obtain rfl := Host.Outcome.next.inj ht <;> rfl
  all_goals rfl

theorem hostTurn_tx (ht : hostTurn s = .next t) : t.tx = s.tx := by
  rcases hostTurn_next ht with ⟨rfl, _⟩ | ⟨_, _, _, ⟨_, rfl⟩ | ⟨_, _, _, hf⟩⟩
  · rfl
  · rfl
  · rcases hostInterpret_next hf with ⟨_, _, rfl⟩ | ⟨_, _, _, rfl⟩ <;> rfl

theorem restart_tx : s.restart.tx = s.tx := by
  by_cases hp : s.phase = .halt
  · rw [restart_halted s hp]
  · rw [restart_running s hp]

/-- Of the other agents' moves only those that write a Request touch TX, and they extend it. -/
theorem runMove_tx {m : Move} (hm : m ≠ .ingress) (ht : runMove m s = .next t) :
    t.tx = s.tx ∨ (m.writesTx = true ∧ s.tx <+: t.tx) := by
  cases m with
  | ingress => exact absurd rfl hm
  | request k p => exact .inr ⟨rfl, transmit_tx_prefix (hostRequest_next ht).2⟩
  | call c =>
    obtain ⟨_, _, u, hu, ht⟩ := hostCall_next ht
    have hpre : s.tx <+: u.tx := transmit_tx_prefix hu
    rcases ht with ⟨_, rfl⟩ | ⟨_, _, _, rfl⟩ <;> exact .inr ⟨rfl, hpre⟩
  | device sym => obtain rfl := Host.Outcome.next.inj ht; exact .inl rfl
  | transport a => obtain rfl := Host.Outcome.next.inj ht; exact .inl rfl
  | buffer bytes => obtain rfl := Host.Outcome.next.inj ht; exact .inl rfl
  | host => exact .inl (hostTurn_tx ht)
  | timeout => rcases hostTimeout_next ht with rfl | ⟨_, _, rfl⟩ <;> exact .inl rfl
  | popResponse => obtain ⟨_, rfl⟩ := hostPop_next ht; exact .inl rfl
  | nextEvent => obtain ⟨_, rfl⟩ := nextEvent_next ht; exact .inl rfl
  | eventCaller => rcases eventTurn_next ht with ⟨_, rfl⟩ | ⟨_, rfl⟩ <;> exact .inl rfl
  | popEvent => obtain ⟨_, rfl⟩ := eventPop_next ht; exact .inl rfl
  | restart => obtain rfl := Host.Outcome.next.inj ht; exact .inl restart_tx

/-- A step leaves TX alone, or it is a scheduled move that writes a Request and extends TX at the end. -/
theorem step_tx (ht : step s = .next t) :
    t.tx = s.tx ∨ (s.tx <+: t.tx ∧ ∃ m, s.sched.head? = some m ∧ m.writesTx = true) := by
  rcases step_kinds s with ⟨sym, ⟨_, hp, _⟩, e⟩ | ⟨_, _, e⟩ | ⟨m, ms, hs, hm, e⟩ <;> rw [e] at ht
  · exact .inl (ingressStep_tx (s := s.taken) hp ht)
  · obtain rfl := Host.Outcome.next.inj ht
    exact .inl rfl
  · exact (runMove_tx hm ht).imp_right fun ⟨hw, hpre⟩ => ⟨hpre, m, by simp [hs], hw⟩

/-! The fetch: the candidate behind each answer of the receive decoder (`20_memory.md` R78). -/

theorem phase_of_candidate_nil (h : s.candidate = some []) (hp : s.phase ≠ .halt) : s.phase = .seek := by
  cases hph : s.phase with
  | seek => rfl
  | halt => exact absurd hph hp
  | cmd => simp [candidate_cmd hph] at h
  | len => simp [candidate_len hph] at h
  | payload => simp [candidate_payload (.inl hph)] at h
  | chk => simp [candidate_payload (.inr hph)] at h

theorem phase_of_candidate_pair {x c : Byte} (h : s.candidate = some [x, c]) : s.phase = .len ∧ s.cmd = c := by
  cases hph : s.phase with
  | seek => simp [State.candidate, hph] at h
  | halt => simp [State.candidate, hph] at h
  | cmd => simp [candidate_cmd hph] at h
  | len =>
    obtain ⟨_, hc⟩ : Config.startByte = x ∧ s.cmd = c := by simpa [candidate_len hph] using h
    exact ⟨rfl, hc⟩
  | payload => simp [candidate_payload (.inl hph)] at h
  | chk => simp [candidate_payload (.inr hph)] at h

/-- A candidate that is a frame but for its checksum byte: its command id, its LENGTH and its payload are in CMD, LEN and BUF. -/
theorem registers_of_candidate_frameBody {c : Byte} {p : List Byte} (h : s.candidate = some (frameBody c p)) :
    (s.phase = .payload ∨ s.phase = .chk) ∧ s.cmd = c ∧ s.len = BitVec.ofNat 8 p.length ∧
      s.buf.readBlock 0 s.idx.toNat = some p := by
  have held (hp : s.phase = .payload ∨ s.phase = .chk) :
      s.cmd = c ∧ s.len = BitVec.ofNat 8 p.length ∧ s.buf.readBlock 0 s.idx.toNat = some p := by
    obtain ⟨d, hd, hw⟩ := Option.map_eq_some_iff.1 (candidate_payload hp ▸ h)
    obtain ⟨hc, hl, rfl⟩ : s.cmd = c ∧ s.len = BitVec.ofNat 8 p.length ∧ d = p := by simpa [frameBody] using hw
    exact ⟨hc, hl, hd⟩
  cases hph : s.phase with
  | seek => simp [State.candidate, hph, frameBody] at h
  | halt => simp [State.candidate, hph, frameBody] at h
  | cmd => simp [candidate_cmd hph, frameBody] at h
  | len => simp [candidate_len hph, frameBody] at h
  | payload => exact ⟨.inl rfl, held (.inl hph)⟩
  | chk => exact ⟨.inr rfl, held (.inr hph)⟩

/-- A candidate that is a frame but for its checksum byte waits for that byte: in PAYLOAD fewer than LEN bytes are taken. -/
theorem chk_of_candidate_frameBody (hL : s.LenInv) {c : Byte} {p : List Byte} (hp : PayloadFits p)
    (h : s.candidate = some (frameBody c p)) :
    s.phase = .chk ∧ s.cmd = c ∧ s.buf.readBlock 0 s.len.toNat = some p := by
  obtain ⟨hph, hc, hl, hb⟩ := registers_of_candidate_frameBody h
  have hlen : s.len.toNat = s.idx.toNat := by rw [hl, length_byte hp, Memory.readBlock_length hb]
  have hchk : s.phase = .chk := hph.resolve_left fun hpl => by
    have hlt := (hL.1 hpl).2
    omega
  exact ⟨hchk, hc, hlen ▸ hb⟩

/-- The symbol that completes an instruction runs it. -/
theorem ingressStep_of_decodeRx {b : Byte} {w : List Byte} {i : Instr} (hL : s.LenInv) (hA : s.AccInv)
    (hp : s.phase ≠ .halt) (hw : s.candidate = some w) (hd : decodeRx s.cfg (w ++ [b]) = .ok (i, [])) :
    ingressStep (.byte b) s = exec i s := by
  rcases decodeRx_ok hd with ⟨x, hx, e, rfl⟩ | ⟨c, l, hl, e, rfl⟩ | ⟨c, p, hfit, e, rfl⟩
  · obtain ⟨rfl, rfl⟩ : w = [] ∧ b = x := by simpa [List.append_eq_singleton_iff] using e
    simp [ingressStep, phase_of_candidate_nil hw hp, hx]
  · obtain ⟨rfl, rfl⟩ : w = [Config.startByte, c] ∧ b = l := by
      simpa using List.append_inj' (t₁ := [b]) (s₂ := [Config.startByte, c]) e rfl
    obtain ⟨hlen, rfl⟩ := phase_of_candidate_pair hw
    simp [ingressStep, hlen, hl]
  · obtain ⟨rfl, rfl⟩ : w = frameBody c p ∧ b = checksum (frameBody c p) := by
      simpa [frame] using e
    obtain ⟨hchk, rfl, hb⟩ := chk_of_candidate_frameBody hL hfit hw
    have hacc : checksum (frameBody s.cmd p) = s.acc := by simpa [hw] using hA (by simp [hchk])
    simp [ingressStep, hchk, hacc, acceptCandidate, hb]

theorem hostRequest_idle {k : Request} {p : List Byte} (h : s.inflight = .idle) :
    hostRequest k p s = exec (.ofRequest k p) s := by
  simp [hostRequest, h]

end

/-- Settles O56: TX changes only in a scheduled move that writes a Request, and there it grows at the end. -/
theorem transmitOnlyByHost : Obligations.TransmitOnlyByHost := by
  intro s t ht
  rcases step_tx ht with e | ⟨hpre, hm⟩
  · exact ⟨e ▸ List.prefix_refl _, fun hne => absurd e hne⟩
  · exact ⟨hpre, fun _ => hm⟩

/-- Settles O1: the decoder's answer names the phase the candidate is in, and there the ingress step on the last byte is that
instruction's meaning; a scheduled Request of an idle Host is its meaning at once. -/
theorem stepRunsDecodedInstruction : Obligations.StepRunsDecodedInstruction := by
  refine ⟨fun s b w i hInv htakes hw hd => ?_, fun s k p ms hs hi => ?_⟩
  · obtain ⟨_, hL, hA, _⟩ := hInv
    have ⟨_, hp, _⟩ := htakes
    rw [step_takes htakes]
    exact ingressStep_of_decodeRx (s := s.taken) hL hA hp hw hd
  · rw [step_cons hs]
    exact hostRequest_idle (s := { s with sched := ms }) hi

end Sys2Proof.Machine
end

section
/-! SUPPORT. The round trip of the codec: the code tables that meet R96 are injective with disjoint images, so that each lookup inverts
its table; and each decoder inverts the encoder of its direction. -/

namespace Sys2Proof

/-! The code tables (`30_encoding.md` R96). -/

section
variable {cfg : Config} {c : Byte}

theorem Config.WellFormed.req_injective (h : cfg.WellFormed) : Function.Injective cfg.req := by
  obtain ⟨hreq, _⟩ := h
  exact fun k k' => List.inj_on_of_nodup_map hreq k.mem_all k'.mem_all

theorem Config.WellFormed.rsp_injective (h : cfg.WellFormed) : Function.Injective cfg.rsp := by
  obtain ⟨_, hrx, _⟩ := h
  obtain ⟨hrsp, _⟩ := List.nodup_append'.1 hrx
  exact fun k k' => List.inj_on_of_nodup_map hrsp k.mem_all k'.mem_all

/-- Two Event variants that have a code have different ones. -/
theorem Config.WellFormed.evt_injective (h : cfg.WellFormed) {k k' : Event} (hk : cfg.evt k = some c)
    (hk' : cfg.evt k' = some c) : k = k' := by
  obtain ⟨_, hrx, _⟩ := h
  obtain ⟨_, hevt, _⟩ := List.nodup_append'.1 hrx
  have hpair := List.pairwise_filterMap.1 hevt
  have hsymm : Std.Symm fun k k' => ∀ b, cfg.evt k = some b → ∀ b', cfg.evt k' = some b' → b ≠ b' :=
    ⟨fun _ _ hne b hb b' hb' => (hne b' hb' b hb).symm⟩
  by_contra hne
  exact hpair.forall k.mem_all k'.mem_all hne c hk c hk' rfl

theorem Config.rsp_mem_rxCodes (cfg : Config) (k : Response) : cfg.rsp k ∈ cfg.rxCodes :=
  List.mem_append_left _ (List.mem_map_of_mem k.mem_all)

theorem Config.evt_mem_rxCodes {k : Event} (h : cfg.evt k = some c) : c ∈ cfg.rxCodes :=
  List.mem_append_right _ (List.mem_filterMap.2 ⟨k, k.mem_all, h⟩)

/-- No code is both a Response's and an Event's. -/
theorem Config.WellFormed.evt_ne_rsp (h : cfg.WellFormed) (k : Response) (e : Event) : cfg.evt e ≠ some (cfg.rsp k) := by
  obtain ⟨_, hrx, _⟩ := h
  obtain ⟨_, _, hdisj⟩ := List.nodup_append'.1 hrx
  exact fun he => hdisj (List.mem_map_of_mem k.mem_all) (List.mem_filterMap.2 ⟨e, e.mem_all, he⟩)

/-! Each lookup inverts its table (`42_classify_route.md` R181). -/

theorem requestOf_req (h : cfg.WellFormed) (k : Request) : requestOf cfg (cfg.req k) = some k := by
  cases hf : requestOf cfg (cfg.req k) with
  | none => simpa using List.find?_eq_none.1 hf k k.mem_all
  | some k' => rw [h.req_injective (requestOf_some hf)]

theorem classify_rsp (h : cfg.WellFormed) (k : Response) : classify cfg (cfg.rsp k) = .response k := by
  cases hc : classify cfg (cfg.rsp k) with
  | response k' => rw [h.rsp_injective (classify_response hc)]
  | event e => exact absurd (classify_event hc) (h.evt_ne_rsp k e)
  | unknown => exact absurd (cfg.rsp_mem_rxCodes k) (classify_unknown hc)

theorem classify_of_evt (h : cfg.WellFormed) {k : Event} (hk : cfg.evt k = some c) : classify cfg c = .event k := by
  cases hc : classify cfg c with
  | response r => exact absurd (classify_response hc ▸ hk) (h.evt_ne_rsp r k)
  | event k' => rw [h.evt_injective (classify_event hc) hk]
  | unknown => exact absurd (Config.evt_mem_rxCodes hk) (classify_unknown hc)

theorem classify_of_notMem (h : c ∉ cfg.rxCodes) : classify cfg c = .unknown := by
  cases hc : classify cfg c with
  | response k => exact absurd (classify_response hc ▸ cfg.rsp_mem_rxCodes k) h
  | event k => exact absurd (Config.evt_mem_rxCodes (classify_event hc)) h
  | unknown => rfl

end

/-! Well-formedness, direction and encoding of the instruction a frame stands for. -/

section
variable (cfg : Config)

@[simp] theorem Instr.ofRequest_direction (k : Request) (p : List Byte) : (Instr.ofRequest k p).direction = .tx := by
  simp [Instr.direction]

@[simp] theorem Instr.ofResponse_direction (k : Response) (d : List Byte) : (Instr.ofResponse k d).direction = .rx := by
  simp [Instr.direction]

@[simp] theorem Instr.ofEvent_direction (k : Event) (d : List Byte) : (Instr.ofEvent k d).direction = .rx := by
  simp [Instr.direction]

theorem acceptedInstr_direction (c : Byte) (d : List Byte) : (acceptedInstr cfg c d).direction = .rx := by
  rcases acceptedInstr_form cfg c d with ⟨k, _, _, e⟩ | ⟨k, _, _, e⟩ | ⟨_, _, e⟩ <;> rw [e]
  · exact Instr.ofResponse_direction k d
  · exact Instr.ofEvent_direction k d
  · rfl

theorem acceptedInstr_wf (c : Byte) {d : List Byte} (h : PayloadFits d) : (acceptedInstr cfg c d).wf cfg = true := by
  rcases acceptedInstr_form cfg c d with ⟨k, _, _, e⟩ | ⟨k, hk, _, e⟩ | ⟨hc, _, e⟩ <;> rw [e]
  · simpa [Instr.wf, Form.wf] using h
  · simpa [Instr.wf, Form.wf, hk] using h
  · simpa [Instr.wf, Instr.form, Form.wf, hc] using h

/-- Whatever its classification, an accepted frame is encoded back to itself. -/
theorem encode_acceptedInstr (c : Byte) (d : List Byte) : encode cfg (acceptedInstr cfg c d) = some (frame c d) := by
  rcases acceptedInstr_form cfg c d with ⟨k, hk, _, e⟩ | ⟨k, hk, _, e⟩ | ⟨_, _, e⟩ <;> rw [e]
  · simp [encode, Form.encode, hk]
  · simp [encode, Form.encode, hk]
  · rfl

end

/-! The decoders on the words they accept. -/

section
variable (cfg : Config)

theorem decodeRx_resync {b : Byte} (rest : List Byte) (h : b ≠ Config.startByte) :
    decodeRx cfg (b :: rest) = .ok (.rxResyncByte b, rest) := if_pos h

theorem decodeRx_illegalLength (c : Byte) {l : Byte} (rest : List Byte) (h : Config.maxPayloadLen < l.toNat) :
    decodeRx cfg (Config.startByte :: c :: l :: rest) = .ok (.rxIllegalLength c l, rest) := by
  simp [decodeRx, splitFrame_illegal c rest h]

theorem decodeRx_frame (c : Byte) {p : List Byte} (rest : List Byte) (h : PayloadFits p) :
    decodeRx cfg (frame c p ++ rest) = .ok (acceptedInstr cfg c p, rest) := by
  have hsplit := splitFrame_frame c rest h
  rw [show frame c p ++ rest = Config.startByte :: ((frame c p).tail ++ rest) from rfl] at hsplit ⊢
  simp [decodeRx, hsplit]

/-- The decoder of an accepted frame's own direction. -/
theorem decode_acceptedInstr (c : Byte) {p : List Byte} (rest : List Byte) (h : PayloadFits p) :
    decode cfg (acceptedInstr cfg c p).direction (frame c p ++ rest) = .ok (acceptedInstr cfg c p, rest) := by
  rw [acceptedInstr_direction]
  exact decodeRx_frame cfg c rest h

theorem decodeTx_frame {c : Byte} {k : Request} {p : List Byte} (rest : List Byte) (h : PayloadFits p)
    (hk : requestOf cfg c = some k) : decodeTx cfg (frame c p ++ rest) = .ok (.ofRequest k p, rest) := by
  simp [decodeTx, splitFrame_frame c rest h, hk]

variable {cfg} in
/-- What the transmit decoder accepts is a Request's frame at the head of the stream. -/
theorem decodeTx_ok {w rest : List Byte} {i : Instr} (h : decodeTx cfg w = .ok (i, rest)) :
    ∃ k p, PayloadFits p ∧ w = frame (cfg.req k) p ++ rest ∧ i = .ofRequest k p := by
  cases hs : splitFrame w with
  | error e => simp [decodeTx, hs] at h
  | ok x =>
    obtain ⟨c, p, after⟩ := x
    obtain ⟨hp, hw⟩ := splitFrame_ok hs
    cases hr : requestOf cfg c with
    | none => simp [decodeTx, hs, hr] at h
    | some k =>
      obtain ⟨rfl, rfl⟩ : Instr.ofRequest k p = i ∧ after = rest := by simpa [decodeTx, hs, hr] using h
      exact ⟨k, p, hp, requestOf_some hr ▸ hw, rfl⟩

end

/-- The round trip by shape: the encoding of a well-formed shape is a word its direction's decoder accepts as that shape. -/
theorem decode_encode_toInstr {cfg : Config} (hcfg : cfg.WellFormed) (f : Form) (rest : List Byte) (h : f.wf cfg = true) :
    ∃ w, f.encode cfg = some w ∧ decode cfg f.toInstr.direction (w ++ rest) = .ok (f.toInstr, rest) := by
  cases f with
  | request k p =>
    have hp : PayloadFits p := by simpa [Form.wf] using h
    refine ⟨_, rfl, ?_⟩
    rw [Form.toInstr, Instr.ofRequest_direction]
    exact decodeTx_frame cfg rest hp (requestOf_req hcfg k)
  | response k d =>
    have hd : PayloadFits d := by simpa [Form.wf] using h
    refine ⟨_, rfl, ?_⟩
    simpa [Form.toInstr, acceptedInstr, classify_rsp hcfg] using decode_acceptedInstr cfg (cfg.rsp k) rest hd
  | event k d =>
    obtain ⟨hd, hc⟩ : PayloadFits d ∧ (cfg.evt k).isSome := by simpa [Form.wf] using h
    obtain ⟨c, hc⟩ := Option.isSome_iff_exists.1 hc
    refine ⟨frame c d, by simp [Form.encode, hc], ?_⟩
    simpa [Form.toInstr, acceptedInstr, classify_of_evt hcfg hc] using decode_acceptedInstr cfg c rest hd
  | resync b => exact ⟨_, rfl, decodeRx_resync cfg rest (by simpa [Form.wf] using h)⟩
  | illegalLength c l => exact ⟨_, rfl, decodeRx_illegalLength cfg c rest (by simpa [Form.wf] using h)⟩
  | unknownId c d =>
    obtain ⟨hd, hc⟩ : PayloadFits d ∧ c ∉ cfg.rxCodes := by simpa [Form.wf] using h
    refine ⟨_, rfl, ?_⟩
    simpa [Form.toInstr, acceptedInstr, classify_of_notMem hc] using decode_acceptedInstr cfg c rest hd

/-- Settles O3: an instruction is the instruction of its shape, and there the round trip goes shape by shape. -/
theorem decodeOfEncodeIsIdentity : Obligations.DecodeOfEncodeIsIdentity := by
  intro cfg i rest hcfg hwf
  simpa [encode] using decode_encode_toInstr hcfg i.form rest hwf

/-- Settles O4: each answer of a decoder names the word at the head of the stream, and that word is the answer's encoding. -/
theorem encodeOfDecodeIsIdentity : Obligations.EncodeOfDecodeIsIdentity := by
  intro cfg dir w i rest h
  cases dir with
  | tx =>
    obtain ⟨k, p, hp, rfl, rfl⟩ := decodeTx_ok h
    exact ⟨Instr.ofRequest_direction k p, by simpa [Instr.wf, Form.wf] using hp, _, by simp [encode, Form.encode], rfl⟩
  | rx =>
    rcases decodeRx_ok h with ⟨b, hb, rfl, rfl⟩ | ⟨c, l, hl, rfl, rfl⟩ | ⟨c, p, hp, rfl, rfl⟩
    · exact ⟨rfl, by simpa [Instr.wf, Form.wf, Instr.form] using hb, [b], rfl, rfl⟩
    · exact ⟨rfl, by simpa [Instr.wf, Form.wf, Instr.form] using hl, [Config.startByte, c, l], rfl, rfl⟩
    · exact ⟨acceptedInstr_direction cfg c p, acceptedInstr_wf cfg c hp, _, encode_acceptedInstr cfg c p, rfl⟩

/-! Well-formed frames (`30_encoding.md` R92). -/

theorem frameWf_cons (s c l : Byte) (rest : List Byte) :
    frameWf (s :: c :: l :: rest) = true ↔
      s = Config.startByte ∧ l.toNat ≤ Config.maxPayloadLen ∧ rest.length = l.toNat + 1 ∧
        checksum (s :: c :: l :: rest) = 0#8 := by
  have hlen : rest.length + 3 = Config.frameOverhead + l.toNat ↔ rest.length = l.toNat + 1 := by
    simp only [Config.frameOverhead]; omega
  simp only [frameWf, Bool.and_eq_true, decide_eq_true_eq, hlen, and_assoc]

theorem frameWf_frame (c : Byte) {p : List Byte} (h : PayloadFits p) : frameWf (frame c p) = true := by
  obtain ⟨_, _, hsum⟩ := Laws.FrameShape.frame_shape c p
  refine (frameWf_cons _ _ _ (p ++ [checksum (frameBody c p)])).2 ⟨rfl, ?_, ?_, hsum⟩
  · rwa [length_byte h]
  · simp [length_byte h]

/-- The last byte of a slice whose exclusive-or is zero is the checksum of the bytes before it (`40_encode.md` R121). -/
theorem eq_checksum_of_append {w : List Byte} {k : Byte} (h : checksum (w ++ [k]) = 0#8) : k = checksum w := by
  rw [checksum_append] at h
  simpa using (BitVec.xor_eq_zero_iff.1 h).symm

/-- A well-formed frame is `FRAME(c, p)` of its second byte and of what stands between its header and its last byte. -/
theorem eq_frame_of_frameWf {w : List Byte} (h : frameWf w = true) : ∃ c p, PayloadFits p ∧ w = frame c p := by
  match w with
  | [] | [_] | [_, _] => simp [frameWf] at h
  | s :: c :: l :: rest =>
    obtain ⟨rfl, hl, hlen, hsum⟩ := (frameWf_cons s c l rest).1 h
    obtain ⟨p, k, rfl⟩ : ∃ p k, rest = p ++ [k] := by
      rcases rest.eq_nil_or_concat with rfl | ⟨p, k, rfl⟩
      · simp at hlen
      · exact ⟨p, k, by simp⟩
    have hp : p.length = l.toNat := by simpa using hlen
    have hbody : frameBody c p = Config.startByte :: c :: l :: p := by simp [frameBody, hp]
    have hk : k = checksum (frameBody c p) := eq_checksum_of_append (by simpa [hbody] using hsum)
    exact ⟨c, p, hp.trans_le hl, by rw [frame, ← hk, hbody]; rfl⟩

/-- The four conditions, read from the slice by position. -/
theorem frameWf_iff (w : List Byte) :
    frameWf w = true ↔ w[0]? = some 0x02#8 ∧ checksum w = 0#8 ∧
      ∃ l : Byte, w[2]? = some l ∧ l.toNat ≤ 224 ∧ w.length = 4 + l.toNat := by
  match w with
  | [] | [_] | [_, _] => simp [frameWf]
  | s :: c :: l :: rest =>
    have hlen : rest.length = l.toNat + 1 ↔ (s :: c :: l :: rest).length = 4 + l.toNat := by
      simp only [List.length_cons]; omega
    rw [frameWf_cons, hlen]
    constructor
    · exact fun ⟨hs, hl, hn, hsum⟩ => ⟨congrArg some hs, hsum, l, rfl, hl, hn⟩
    · rintro ⟨hs, hsum, _, ⟨⟩, hl, hn⟩
      exact ⟨Option.some.inj hs, hl, hn, hsum⟩

/-- Settles O5: the definition's checks by position; a frame passes them, and a slice that passes them is the frame of its fields. -/
theorem wellFormedFramesAreFrames : Obligations.WellFormedFramesAreFrames := by
  refine fun w => ⟨frameWf_iff w, eq_frame_of_frameWf, ?_⟩
  rintro ⟨c, p, hp, rfl⟩
  exact frameWf_frame c hp

/-- Settles O7: the header decoder's one check. -/
theorem decodeHeaderReadsLength : Obligations.DecodeHeaderReadsLength :=
  fun _ _ _ => ⟨fun h => if_neg (Nat.not_lt.2 h), fun h => if_pos h⟩

/-- Settles O2: nine fixed words, each decoded by evaluation. -/
theorem specWordsDecode : Obligations.SpecWordsDecode := by
  unfold Obligations.SpecWordsDecode
  decide

end Sys2Proof
end

section
/-! SUPPORT. The parameters: no move of any agent writes the configuration (`30_encoding.md` R96 (iii)). -/

namespace Sys2Proof.Machine

section
variable {s t : State}

theorem transmit_cfg {k : Request} {p : List Byte} (ht : transmit k p s = .next t) : t.cfg = s.cfg := by
  obtain ⟨_, _, _, _, rfl⟩ := transmit_next ht
  rfl

theorem ingressStep_cfg {sym : Symbol} (hp : s.phase ≠ .halt) (ht : ingressStep sym s = .next t) : t.cfg = s.cfg := by
  rcases ingressStep_next hp ht with ⟨_, _, rfl⟩ | ⟨b, _, hb⟩
  · rfl
  rcases hb with ⟨_, _, rfl⟩ | ⟨_, _, rfl⟩ | ⟨_, rfl⟩ | ⟨_, _, rfl⟩ | ⟨_, _, rfl⟩ | ⟨_, _, rfl⟩ |
    ⟨_, _, rfl⟩ | ⟨_, _, d, _, ht⟩
  case inr.inr.inr.inr.inr.inr.inr =>
    rcases exec_accepted_cases s.cmd d hp with ⟨_, _, e⟩ | ⟨_, _, e⟩ | ⟨_, e⟩
      <;> rw [e] at ht <;> obtain rfl := Host.Outcome.next.inj ht <;> rfl
  all_goals rfl

theorem hostTurn_cfg (ht : hostTurn s = .next t) : t.cfg = s.cfg := by
  rcases hostTurn_next ht with ⟨rfl, _⟩ | ⟨_, _, _, ⟨_, rfl⟩ | ⟨_, _, _, hf⟩⟩
  · rfl
  · rfl
  · rcases hostInterpret_next hf with ⟨_, _, rfl⟩ | ⟨_, _, _, rfl⟩ <;> rfl

@[simp] theorem restart_cfg : s.restart.cfg = s.cfg := by
  by_cases hp : s.phase = .halt
  · rw [restart_halted s hp]
  · rw [restart_running s hp]

theorem runMove_cfg {m : Move} (hm : m ≠ .ingress) (ht : runMove m s = .next t) : t.cfg = s.cfg := by
  cases m with
  | ingress => exact absurd rfl hm
  | request k p => exact transmit_cfg (hostRequest_next ht).2
  | call c =>
    obtain ⟨_, _, u, hu, ht⟩ := hostCall_next ht
    have hcfg : u.cfg = s.cfg := transmit_cfg hu
    rcases ht with ⟨_, rfl⟩ | ⟨_, _, _, rfl⟩ <;> exact hcfg
  | device sym => obtain rfl := Host.Outcome.next.inj ht; rfl
  | transport a => obtain rfl := Host.Outcome.next.inj ht; rfl
  | buffer bytes => obtain rfl := Host.Outcome.next.inj ht; rfl
  | host => exact hostTurn_cfg ht
  | timeout => rcases hostTimeout_next ht with rfl | ⟨_, _, rfl⟩ <;> rfl
  | popResponse => obtain ⟨_, rfl⟩ := hostPop_next ht; rfl
  | nextEvent => obtain ⟨_, rfl⟩ := nextEvent_next ht; rfl
  | eventCaller => rcases eventTurn_next ht with ⟨_, rfl⟩ | ⟨_, rfl⟩ <;> rfl
  | popEvent => obtain ⟨_, rfl⟩ := eventPop_next ht; rfl
  | restart => obtain rfl := Host.Outcome.next.inj ht; exact restart_cfg

theorem step_cfg (ht : step s = .next t) : t.cfg = s.cfg := by
  rcases step_kinds s with ⟨sym, ⟨_, hp, _⟩, e⟩ | ⟨_, _, e⟩ | ⟨m, ms, _, hm, e⟩ <;> rw [e] at ht
  · exact ingressStep_cfg (s := s.taken) hp ht
  · obtain rfl := Host.Outcome.next.inj ht
    rfl
  · exact runMove_cfg (s := { s with sched := ms }) hm ht

/-- A run that answers a next state is a first step and the run from there. -/
theorem runSteps_succ_next {n : Nat} (h : runSteps (n + 1) s = .next t) : ∃ u, step s = .next u ∧ runSteps n u = .next t := by
  rw [runSteps_succ] at h
  cases hs : step s with
  | next u => exact ⟨u, rfl, by simpa [hs] using h⟩
  | fault r => simp [hs] at h
  | refused r => simp [hs] at h

end

/-- Settles O57, by induction on the number of steps: each keeps the configuration. -/
theorem parametersAreConstant : Obligations.ParametersAreConstant := by
  intro n
  induction n with
  | zero => exact fun s t h => congrArg State.cfg (Host.Outcome.next.inj h).symm
  | succ n ih =>
    intro s t h
    obtain ⟨u, hu, ht⟩ := runSteps_succ_next h
    exact (ih u t ht).trans (step_cfg hu)

end Sys2Proof.Machine
end

section
/-! SUPPORT. The laws of the checksum (`40_encode.md` R121), the slice decoder on a frame, and what a Request's meaning writes. -/

namespace Sys2Proof

/-! Checksum. -/

/-- The exclusive-or of the bytes does not depend on their order. -/
theorem checksum_perm {s t : List Byte} (h : s.Perm t) : checksum s = checksum t := by
  induction h with
  | nil => rfl
  | cons b _ ih => rw [checksum_cons, checksum_cons, ih]
  | swap a b s => simp only [checksum_cons, ← BitVec.xor_assoc, BitVec.xor_comm b a]
  | trans _ _ ih₁ ih₂ => exact ih₁.trans ih₂

theorem checksum_append_checksum (s : List Byte) : checksum (s ++ [checksum s]) = 0#8 := by
  simp [checksum_append]

/-- A pattern of bits flipped in one byte shows in the checksum as that pattern. -/
theorem checksum_modify_xor (x : Byte) {s : List Byte} {i : Nat} (h : i < s.length) :
    checksum (s.modify i (· ^^^ x)) = checksum s ^^^ x := by
  induction s generalizing i with
  | nil => simp at h
  | cons b s ih =>
    cases i with
    | zero => simp [BitVec.xor_assoc, BitVec.xor_comm x]
    | succ i =>
      have hi : i < s.length := by simpa using h
      simp [ih hi, BitVec.xor_assoc]

/-- Flipping one of a byte's eight bits changes the byte. -/
theorem Byte.xor_twoPow_ne (x : Byte) {n : Nat} (h : n < 8) : x ^^^ BitVec.twoPow 8 n ≠ x := fun e => by
  have hbit : (x ^^^ BitVec.twoPow 8 n).getLsbD n = x.getLsbD n := congrArg (·.getLsbD n) e
  simp [Config.byteW, h] at hbit

/-- A frame passes the five checks of `decode_frame` (`41_ingress.md` R167). -/
theorem decodeFrame_frame (c : Byte) {p : List Byte} (h : PayloadFits p) : decodeFrame (frame c p) = .ok (c, p) := by
  have hlen : (frame c p).length = Config.frameOverhead + (BitVec.ofNat 8 p.length).toNat := by
    rw [frame_length, length_byte h, Nat.add_comm]
  have h224 : ¬ Config.maxPayloadLen < (BitVec.ofNat 8 p.length).toNat := by
    rw [length_byte h]; exact Nat.not_lt.2 h
  have hsum : checksum (frame c p).dropLast = (frame c p).getLastD 0#8 := by simp [frame]
  have htake : (p ++ [checksum (frameBody c p)]).take (BitVec.ofNat 8 p.length).toNat = p := by
    rw [length_byte h]; simp
  have hcons : frame c p = Config.startByte :: c :: BitVec.ofNat 8 p.length :: (p ++ [checksum (frameBody c p)]) := rfl
  rw [hcons] at hlen hsum ⊢
  rw [decodeFrame, if_neg (by omega)]
  simp only [ne_eq, not_true_eq_false, if_false, if_neg h224, if_neg (not_not.2 hlen), if_neg (not_not.2 hsum), htake]

end Sys2Proof

namespace Sys2Proof.Machine

/-- Settles O6: each law by the recursion of the checksum; two flips of one bit are two equal patterns, which cancel. -/
theorem checksumLaws : Obligations.ChecksumLaws := by
  refine ⟨checksum_append, fun _ _ => checksum_perm, checksum_append_checksum, ?_, ?_⟩
  · intro s i n hi hn
    have hflip : checksum (flipBit s i n) = checksum s ^^^ BitVec.twoPow 8 n := checksum_modify_xor _ hi
    have hne := Byte.xor_twoPow_ne (checksum s) hn
    exact ⟨hflip, hflip ▸ hne, hne.symm⟩
  · intro s i j n hi hj _ _
    have hj' : j < (flipBit s i n).length := by simpa [flipBit] using hj
    calc checksum (flipBit (flipBit s i n) j n)
        = checksum (flipBit s i n) ^^^ BitVec.twoPow 8 n := checksum_modify_xor _ hj'
      _ = checksum s ^^^ BitVec.twoPow 8 n ^^^ BitVec.twoPow 8 n := by rw [flipBit, checksum_modify_xor _ hi]
      _ = checksum s := by rw [BitVec.xor_assoc, BitVec.xor_self, BitVec.xor_zero]

/-! The Request rows (`40_encode.md` R122 to R124). -/

/-- Settles O23: what a Request's meaning can answer, told apart by the payload's length and the buffer's. -/
theorem encodeContractFaults : Obligations.EncodeContractFaults := by
  intro k p s
  simp only [exec_ofRequest]
  rcases transmit_cases k p s with ⟨hlong, e⟩ | ⟨hfit, hshort, e⟩ | ⟨hfit, hcap, _, e⟩ | ⟨hfit, hcap, _, _, _, e⟩
  · exact ⟨fun _ => e, fun h => absurd h (Nat.not_le.2 hlong), fun h => absurd h (Nat.not_le.2 hlong)⟩
  · exact ⟨fun h => absurd hfit (Nat.not_le.2 h), fun _ _ => e, fun _ h => absurd hshort (Nat.not_lt.2 h)⟩
  · exact ⟨fun h => absurd hfit (Nat.not_le.2 h), fun _ h => absurd hcap (Nat.not_le.2 h), fun _ _ => ⟨_, e⟩⟩
  · exact ⟨fun h => absurd hfit (Nat.not_le.2 h), fun _ h => absurd hcap (Nat.not_le.2 h), fun _ _ => ⟨_, e⟩⟩

/-- A payload within the bound, a buffer that holds its frame and a transport that accepts: the frame is encoded and sent. -/
theorem transmit_accepts (k : Request) {p : List Byte} {s : State} (hp : PayloadFits p) (hcap : 4 + p.length ≤ s.encCap)
    (hport : s.txPort = .accepts) :
    transmit k p s = .next { s with
      enc := s.enc.writeBlock 0 (frame (s.cfg.req k) p), tx := s.tx ++ frame (s.cfg.req k) p } := by
  rcases transmit_cases k p s with ⟨hlong, _⟩ | ⟨_, hshort, _⟩ | ⟨_, _, _, e⟩ | ⟨_, _, _, _, hfails, _⟩
  · exact absurd hp (Nat.not_le.2 hlong)
  · exact absurd hcap (Nat.not_le.2 hshort)
  · exact e
  · simp [hport] at hfails

/-- Settles O21: the encoded frame reads back from ENC, and ENC beyond it is not written. -/
theorem requestEncodesAndTransmits : Obligations.RequestEncodesAndTransmits := by
  intro k p s hp hcap hport
  exact ⟨_, (exec_ofRequest k p s).trans (transmit_accepts k hp hcap hport), s.enc.read_frame _ p⟩

/-- Settles O24: a Request writes ENC, TX and the results, and of ENC only the frame's own addresses. -/
theorem requestFrame : Obligations.RequestFrame := by
  intro k p s t h
  rw [exec_ofRequest] at h
  obtain ⟨_, _, w, r, rfl⟩ := transmit_next h
  have hing : s.SameIngress s := ⟨rfl, rfl, rfl, rfl, rfl, rfl, fun _ => rfl, rfl, rfl, rfl⟩
  obtain ⟨_, hbeyond⟩ := s.enc.read_frame (s.cfg.req k) p
  exact ⟨hing, rfl, rfl, rfl, rfl, rfl, rfl, rfl, rfl, rfl, hbeyond⟩

end Sys2Proof.Machine
end

section
/-! SUPPORT. The run of a whole frame through the ingress machine: header, payload, checksum byte (`41_ingress.md` R166). -/

namespace Sys2Proof.Machine

section
variable {s : State} {rest : List Symbol}

/-- The same machine before another remainder of the receive stream. -/
def State.withRx (r : List Symbol) (s : State) : State := { s with rx := r }

/-- A running ingress machine that moves by itself takes the symbol at the head of RX. -/
theorem step_unscheduled {sym : Symbol} (hs : s.sched = []) (hp : s.phase ≠ .halt) (hx : s.rx = sym :: rest) :
    step s = ingressStep sym (s.withRx rest) := by
  have htaken : s.taken = s.withRx rest := by simp [State.taken, State.withRx, hs, hx]
  have htakes : s.Takes sym := ⟨by simp [State.ingressNext, hs], hp, by simp [hx]⟩
  rw [step_takes htakes, htaken]

theorem runSteps_succ_of_next {n : Nat} {u : State} (h : step s = .next u) : runSteps (n + 1) s = runSteps n u := by
  rw [runSteps_succ, h]

theorem runSteps_add_of_next {a b : Nat} {u : State} (h : runSteps a s = .next u) : runSteps (a + b) s = runSteps b u := by
  rw [runSteps_add, h]

/-- From SEEK, the three header bytes with a legal LENGTH (`41_ingress.md` R151, R153, R154). -/
theorem runSteps_header {c l : Byte} (hp : s.phase = .seek) (hs : s.sched = [])
    (hx : s.rx = .byte Config.startByte :: .byte c :: .byte l :: rest) (hl : l.toNat ≤ Config.maxPayloadLen) :
    runSteps 3 s = .next (((s.withRx rest).startCandidate.takeCommand c).takeLength l) := by
  have hstart : step s = .next (s.withRx (.byte c :: .byte l :: rest)).startCandidate := by
    rw [step_unscheduled hs (by simp [hp]) hx]
    simp [ingressStep, State.withRx, hp]
  have hcmd : step (s.withRx (.byte c :: .byte l :: rest)).startCandidate =
      .next ((s.withRx (.byte l :: rest)).startCandidate.takeCommand c) :=
    step_unscheduled (s := (s.withRx (.byte c :: .byte l :: rest)).startCandidate) hs (by simp) rfl
  have hlen : step ((s.withRx (.byte l :: rest)).startCandidate.takeCommand c) =
      .next (((s.withRx rest).startCandidate.takeCommand c).takeLength l) :=
    (step_unscheduled (s := (s.withRx (.byte l :: rest)).startCandidate.takeCommand c) hs (by simp) rfl).trans
      (if_neg (Nat.not_lt.2 hl))
  rw [runSteps_succ_of_next hstart, runSteps_succ_of_next hcmd, runSteps_succ_of_next hlen]
  rfl

/-- The state that has taken all `LEN` payload bytes, of which `q` were still to come, and waits for the checksum byte. -/
def State.storedAll (q : List Byte) (rest : List Symbol) (s : State) : State :=
  { s with
    phase := .chk, idx := s.len, acc := s.acc ^^^ checksum q, buf := s.buf.writeBlock s.idx.toNat q, rx := rest }

/-- The payload bytes still to come are stored one after the other (`41_ingress.md` R155), each taken for payload whatever its
value is. -/
theorem runSteps_payload {q : List Byte} (hs : s.sched = []) (hp : s.phase = if q = [] then .chk else .payload)
    (hx : s.rx = q.map .byte ++ rest) (hq : s.idx.toNat + q.length = s.len.toNat) (hl : s.len.toNat ≤ Config.maxPayloadLen) :
    runSteps q.length s = .next (s.storedAll q rest) := by
  induction q generalizing s with
  | nil =>
    have hidx : s.idx = s.len := BitVec.eq_of_toNat_eq hq
    have hdone : s.storedAll [] rest = s := by cases s; simp_all [State.storedAll, Memory.writeBlock]
    rw [hdone]
    rfl
  | cons b q ih =>
    have hp' : s.phase = .payload := hp
    have hq' : s.idx.toNat + (q.length + 1) = s.len.toNat := hq
    have hl' : s.len.toNat ≤ 224 := hl
    have hsucc : (s.idx + 1#8).toNat = s.idx.toNat + 1 := byte_succ_toNat (by omega)
    have hlast : s.idx + 1#8 = s.len ↔ q = [] := by
      rw [← BitVec.toNat_inj, hsucc, ← List.length_eq_zero_iff]; omega
    have hroom : (s.withRx (q.map .byte ++ rest)).idx.toNat < Config.maxPayloadLen := by
      simp only [State.withRx, Config.maxPayloadLen]; omega
    have hstep : step s = .next ((s.withRx (q.map .byte ++ rest)).stored b) := by
      rw [step_unscheduled hs (by simp [hp']) hx, ← State.storePayload_eq_stored hroom]
      simp [ingressStep, State.withRx, hp']
    have hrun := ih (s := (s.withRx (q.map .byte ++ rest)).stored b) hs (by simp [State.stored, State.withRx, hlast]) rfl
      (by simp only [State.stored, State.withRx, hsucc]; omega) hl
    rw [List.length_cons, runSteps_succ_of_next hstep, hrun]
    simp [State.storedAll, State.stored, State.withRx, hsucc, Memory.writeBlock, BitVec.xor_assoc]

/-- The state that holds the candidate `frameBody c p` and waits for its checksum byte (`41_ingress.md` R156, R157). -/
def State.holding (c : Byte) (p : List Byte) (rest : List Symbol) (s : State) : State :=
  { s with
    phase := .chk, cmd := c, len := BitVec.ofNat 8 p.length, idx := BitVec.ofNat 8 p.length
    acc := checksum (frameBody c p), buf := s.buf.writeBlock 0 p, rx := rest }

theorem holding_running (c : Byte) (p : List Byte) : (s.holding c p rest).phase ≠ .halt := by simp [State.holding]

/-- From SEEK, a frame without its checksum byte is taken in `3 + n` steps, whatever its bytes are. -/
theorem runSteps_frameBody {c : Byte} {p : List Byte} (hp : s.phase = .seek) (hs : s.sched = []) (hfit : PayloadFits p)
    (hx : s.rx = (frameBody c p).map .byte ++ rest) : runSteps (3 + p.length) s = .next (s.holding c p rest) := by
  have hlen := length_byte hfit
  have hfit' : (BitVec.ofNat 8 p.length).toNat ≤ Config.maxPayloadLen := hlen.trans_le hfit
  have hzero : BitVec.ofNat 8 p.length = 0#8 ↔ p = [] := by
    rw [← BitVec.toNat_inj, hlen]; simp
  have hheader := runSteps_header (c := c) (l := BitVec.ofNat 8 p.length) (rest := p.map Symbol.byte ++ rest) hp hs hx hfit'
  have hpayload := runSteps_payload (q := p) (rest := rest)
    (s := ((s.withRx (p.map .byte ++ rest)).startCandidate.takeCommand c).takeLength (BitVec.ofNat 8 p.length))
    hs (by simp [hzero]) rfl (by simp [hlen]) hfit'
  rw [runSteps_add_of_next hheader, hpayload]
  simp [State.storedAll, State.holding, State.withRx, State.startCandidate, State.takeCommand, State.takeLength, frameBody,
    BitVec.xor_assoc]

/-- The checksum byte of the held candidate runs the instruction the frame stands for (`41_ingress.md` R156). -/
theorem step_holding_checksum {c : Byte} {p : List Byte} (hs : s.sched = []) (hfit : PayloadFits p) :
    step (s.holding c p (.byte (checksum (frameBody c p)) :: rest)) =
      exec (acceptedInstr s.cfg c p) (s.holding c p rest) := by
  have hread : (s.holding c p rest).buf.readBlock 0 (s.holding c p rest).len.toNat = some p := by
    simp only [State.holding, length_byte hfit]
    exact s.buf.readBlock_writeBlock 0 p
  have haccept : acceptCandidate (s.holding c p rest) = exec (acceptedInstr s.cfg c p) (s.holding c p rest) := by
    simp only [acceptCandidate, hread]
    rfl
  have hstep : step (s.holding c p (.byte (checksum (frameBody c p)) :: rest)) = acceptCandidate (s.holding c p rest) :=
    (step_unscheduled (s := s.holding c p _) hs (holding_running c p) rfl).trans (if_pos rfl)
  exact hstep.trans haccept

/-- From SEEK, `FRAME(c, p)` is taken in `4 + n` steps and runs the instruction it stands for. -/
theorem runSteps_frame {c : Byte} {p : List Byte} (hp : s.phase = .seek) (hs : s.sched = []) (hfit : PayloadFits p)
    (hx : s.rx = (frame c p).map .byte ++ rest) :
    runSteps (4 + p.length) s = exec (acceptedInstr s.cfg c p) (s.holding c p rest) := by
  have hbody : runSteps (3 + p.length) s = .next (s.holding c p (.byte (checksum (frameBody c p)) :: rest)) :=
    runSteps_frameBody hp hs hfit (by simpa [frame] using hx)
  rw [show 4 + p.length = 3 + p.length + 1 by omega, runSteps_add_of_next hbody, runSteps_succ,
    step_holding_checksum hs hfit]
  cases exec (acceptedInstr s.cfg c p) (s.holding c p rest) <;> rfl

theorem Channel.push_queue_of_room {K : Type} (c : Channel K) {cap : Nat} (f : Frame K) (h : c.queue.length < cap) :
    (c.push cap f).2.queue = c.queue ++ [f] := by
  rcases c.push_cases cap f with ⟨_, hq, _⟩ | ⟨hfull, _⟩
  · exact hq
  · exact absurd h hfull

end

/-- Settles O59: the slice decoder passes a frame; in the ingress machine the frame runs its instruction, which its code classifies
as the variant's, and that instruction pushes the frame on its own channel. -/
theorem roundTrip : Obligations.RoundTrip := by
  refine ⟨fun cfg k p hfit => decodeFrame_frame (cfg.req k) hfit, fun s p rest hcfg hp hs hfit => ⟨?_, ?_⟩⟩
  · intro k hx hroom
    have hinstr : acceptedInstr s.cfg (s.cfg.rsp k) p = .ofResponse k p := by simp [acceptedInstr, classify_rsp hcfg]
    have hrun := runSteps_frame hp hs hfit hx
    rw [hinstr, exec_ofResponse, routeResponse_running k p (holding_running _ p)] at hrun
    exact ⟨_, hrun, s.rch.push_queue_of_room _ hroom, rfl⟩
  · intro k c hk hx hroom
    have hinstr : acceptedInstr s.cfg c p = .ofEvent k p := by simp [acceptedInstr, classify_of_evt hcfg hk]
    have hrun := runSteps_frame hp hs hfit hx
    rw [hinstr, exec_ofEvent, routeEvent_running k p (holding_running c p)] at hrun
    exact ⟨_, hrun, s.ech.push_queue_of_room _ hroom, rfl⟩

end Sys2Proof.Machine
end

section
/-! SUPPORT. The ingress machine rule by rule (`41_ingress.md` R151 to R161), what an accepted frame's classification makes of it, and
the received rows. -/

namespace Sys2Proof.Machine

section
variable {s : State} {b : Byte}

/-! One equation for each phase and symbol (`41_ingress.md` R151 to R159). -/

theorem ingressStep_seek_start (hp : s.phase = .seek) :
    ingressStep (.byte Config.startByte) s = .next s.startCandidate := by
  simp [ingressStep, hp]

theorem ingressStep_seek_other (hp : s.phase = .seek) (hb : b ≠ Config.startByte) :
    ingressStep (.byte b) s = exec (.rxResyncByte b) s := by
  simp [ingressStep, hp, hb]

theorem ingressStep_cmd (hp : s.phase = .cmd) : ingressStep (.byte b) s = .next (s.takeCommand b) := by
  simp [ingressStep, hp]

theorem ingressStep_len_legal (hp : s.phase = .len) (hb : b.toNat ≤ Config.maxPayloadLen) :
    ingressStep (.byte b) s = .next (s.takeLength b) := by
  simp [ingressStep, hp, Nat.not_lt.2 hb]

theorem ingressStep_len_illegal (hp : s.phase = .len) (hb : Config.maxPayloadLen < b.toNat) :
    ingressStep (.byte b) s = exec (.rxIllegalLength s.cmd b) s := by
  simp [ingressStep, hp, hb]

theorem ingressStep_payload (hp : s.phase = .payload) (hi : s.idx.toNat < Config.maxPayloadLen) :
    ingressStep (.byte b) s = .next (s.stored b) := by
  simp [ingressStep, hp, State.storePayload_eq_stored hi]

theorem ingressStep_chk_match (hp : s.phase = .chk) {d : List Byte} (hd : s.buf.readBlock 0 s.len.toNat = some d) :
    ingressStep (.byte s.acc) s = exec (acceptedInstr s.cfg s.cmd d) s := by
  simp [ingressStep, hp, acceptCandidate, hd]

theorem ingressStep_chk_mismatch (hp : s.phase = .chk) (hb : b ≠ s.acc) :
    ingressStep (.byte b) s = .next s.discardCandidate := by
  simp [ingressStep, hp, hb]

/-! The byte classes in a running machine (`41_ingress.md` R152, R158). -/

theorem exec_rxResyncByte_running (b : Byte) (h : s.phase ≠ .halt) :
    exec (.rxResyncByte b) s = .next { s with resyncCnt := satInc s.resyncCnt } := whenRunning_running h

theorem exec_rxIllegalLength_running (c l : Byte) (h : s.phase ≠ .halt) :
    exec (.rxIllegalLength c l) s = .next (s.halt .payloadLength) := whenRunning_running h

/-! An accepted frame in a running machine, by the answer of the classifier (`42_classify_route.md` R204 to R207). -/

section
variable {c : Byte} (d : List Byte)

theorem exec_accepted_response {k : Response} (hk : classify s.cfg c = .response k) (h : s.phase ≠ .halt) :
    exec (acceptedInstr s.cfg c d) s =
      .next { s with rch := (s.rch.push Config.respDepth { command := k, data := d }).2, phase := .seek } := by
  rw [acceptedInstr, hk]
  exact (exec_ofResponse k d s).trans (routeResponse_running k d h)

theorem exec_accepted_event {k : Event} (hk : classify s.cfg c = .event k) (h : s.phase ≠ .halt) :
    exec (acceptedInstr s.cfg c d) s =
      .next { s with ech := (s.ech.push Config.evtDepth { command := k, data := d }).2, phase := .seek } := by
  rw [acceptedInstr, hk]
  exact (exec_ofEvent k d s).trans (routeEvent_running k d h)

theorem exec_accepted_unknown (hk : classify s.cfg c = .unknown) (h : s.phase ≠ .halt) :
    exec (acceptedInstr s.cfg c d) s = .next { s with unknownCnt := satInc s.unknownCnt, phase := .seek } := by
  rw [acceptedInstr, hk]
  exact routeUnknown_running h

end

/-- Whatever it stands for, an accepted frame completes: the machine seeks again, has taken no further symbol and has counted no
checksum error. -/
theorem exec_accepted_seeks (c : Byte) (d : List Byte) (h : s.phase ≠ .halt) :
    ∃ t, exec (acceptedInstr s.cfg c d) s = .next t ∧ t.phase = .seek ∧ t.rx = s.rx ∧ t.chkerrCnt = s.chkerrCnt := by
  rcases exec_accepted_cases c d h with ⟨_, _, e⟩ | ⟨_, _, e⟩ | ⟨_, e⟩ <;> exact ⟨_, e, rfl, rfl, rfl⟩

/-- No received row has an effect in HALT (`41_ingress.md` R160). -/
theorem exec_halted {i : Instr} (hi : i.direction = .rx) (h : s.phase = .halt) : exec i s = .next s := by
  rw [exec_form]
  cases hf : i.form with
  | request k p => simp [Instr.direction, hf] at hi
  | response k d => exact whenRunning_halted h
  | event k d => exact whenRunning_halted h
  | resync b => exact whenRunning_halted h
  | illegalLength c l => exact whenRunning_halted h
  | unknownId c d => exact whenRunning_halted h

/-! The payload held for the checksum byte. -/

/-- A byte of a block that was read is the memory's byte at its address. -/
theorem Memory.read_of_readBlock {m : Memory} {a n i : Nat} {bs : List Byte} (h : m.readBlock a n = some bs) (hi : i < n) :
    m.read (a + i) = bs[i]? := by
  induction n generalizing a i bs with
  | zero => omega
  | succ n ih =>
    rw [Memory.readBlock] at h
    split at h
    · rename_i b bs' hb hbs
      obtain rfl := Option.some.inj h
      cases i with
      | zero => exact hb
      | succ i => rw [← Nat.succ_add_eq_add_succ]; exact ih hbs (Nat.lt_of_succ_lt_succ hi)
    · cases h

/-- In CHK every byte of `BUF[0..LEN)` holds a value (`10_state.md` R30 (iv), (v)). -/
theorem State.Inv.chk_payload (h : s.Inv) (hp : s.phase = .chk) : ∃ d, s.buf.readBlock 0 s.len.toNat = some d := by
  obtain ⟨_, hL, hA, _⟩ := h
  have hacc := hA (by simp [hp])
  rw [candidate_payload (.inr hp), (hL.2 hp).2] at hacc
  cases hd : s.buf.readBlock 0 s.len.toNat with
  | none => simp [hd] at hacc
  | some d => exact ⟨d, rfl⟩

end

/-- Settles O58: the run of a whole frame is its instruction on the state that holds its payload, and that instruction, whatever
the code is, completes in SEEK. -/
theorem frameRunsItsInstruction : Obligations.FrameRunsItsInstruction := by
  intro s c p rest hp hs hfit hx
  have hrun := runSteps_frame hp hs hfit hx
  obtain ⟨t, ht, hseek, hrx, hcnt⟩ := exec_accepted_seeks (s := s.holding c p rest) c p (holding_running c p)
  exact ⟨_, s.buf.readBlock_writeBlock 0 p, hrun, t, hrun.trans ht, hseek, hrx, hcnt⟩

/-- Settles O15: IDX is below LEN, so the store is inside BUF; a byte memory reads back what was written and keeps the rest. -/
theorem payloadByteStored : Obligations.PayloadByteStored := by
  intro s b hInv htakes hp
  obtain ⟨_, hL, _⟩ := hInv
  obtain ⟨hlen, hidx⟩ := hL.1 hp
  have hstep : step s = .next (s.taken.stored b) :=
    (step_takes htakes).trans (ingressStep_payload hp (Nat.lt_of_lt_of_le hidx hlen))
  exact ⟨_, hstep, s.buf.read_write_same _ b, fun a ha => s.buf.read_write_other b ha⟩

/-- Settles O16: BUF holds the payload, and the classifier's answer selects the one output of the mux. -/
theorem checksumMatchRoutes : Obligations.ChecksumMatchRoutes := by
  intro s hInv htakes hp
  obtain ⟨d, hd⟩ := hInv.chk_payload hp
  have ⟨_, hrun, _⟩ := htakes
  have hstep : step s = exec (acceptedInstr s.taken.cfg s.taken.cmd d) s.taken :=
    (step_takes htakes).trans (ingressStep_chk_match (s := s.taken) hp hd)
  refine ⟨d, Memory.readBlock_length hd, fun i hi => ?_, hstep.trans ?_⟩
  · rw [← Memory.read_of_readBlock hd hi, Nat.zero_add]
  · cases hk : classify s.cfg s.cmd with
    | response k => exact exec_accepted_response (s := s.taken) d hk hrun
    | event k => exact exec_accepted_event (s := s.taken) d hk hrun
    | unknown => exact exec_accepted_unknown (s := s.taken) d hk hrun

/-- Settles O60: the body of the frame is held after `3 + n` steps, and the wrong byte discards it. -/
theorem corruptedFrameSwallowed : Obligations.CorruptedFrameSwallowed := by
  intro s c k p rest hp hs hfit hk hx
  have hbody : runSteps (3 + p.length) s = .next (s.holding c p (.byte k :: rest)) :=
    runSteps_frameBody hp hs hfit (by simpa using hx)
  have hlast : step (s.holding c p (.byte k :: rest)) = .next (s.holding c p rest).discardCandidate :=
    (step_unscheduled (s := s.holding c p _) hs (holding_running c p) rfl).trans
      (ingressStep_chk_mismatch (s := s.holding c p rest) rfl hk)
  refine ⟨(s.holding c p rest).discardCandidate, ?_, rfl, rfl, rfl, rfl, rfl, rfl, rfl⟩
  rw [show 4 + p.length = 3 + p.length + 1 by omega, runSteps_add_of_next hbody, runSteps_succ_of_next hlast]
  rfl

/-- Settles O11, by the rule for START in SEEK. -/
theorem seekTakesStartByte : Obligations.SeekTakesStartByte :=
  fun s h hp => (step_takes h).trans (ingressStep_seek_start (s := s.taken) hp)

/-- Settles O12: the byte is the resynchronisation row, which counts it. -/
theorem seekDiscardsOtherBytes : Obligations.SeekDiscardsOtherBytes := by
  intro s b h hp hb
  have ⟨_, hrun, _⟩ := h
  calc step s = ingressStep (.byte b) s.taken := step_takes h
    _ = exec (.rxResyncByte b) s.taken := ingressStep_seek_other hp hb
    _ = _ := exec_rxResyncByte_running b hrun

/-- Settles O13, by the rule for CMD. -/
theorem commandByteTaken : Obligations.CommandByteTaken :=
  fun s _ h hp => (step_takes h).trans (ingressStep_cmd (s := s.taken) hp)

/-- Settles O14, by the rule for a legal LENGTH. -/
theorem legalLengthTaken : Obligations.LegalLengthTaken :=
  fun s _ h hp hb => (step_takes h).trans (ingressStep_len_legal (s := s.taken) hp hb)

/-- Settles O17, by the rule for a byte other than ACC in CHK. -/
theorem checksumMismatchDiscards : Obligations.ChecksumMismatchDiscards :=
  fun s _ h hp hb => (step_takes h).trans (ingressStep_chk_mismatch (s := s.taken) hp hb)

/-- Settles O18: the header is the illegal-length row, which halts the machine. -/
theorem illegalLengthHalts : Obligations.IllegalLengthHalts := by
  intro s b h hp hb
  have ⟨_, hrun, _⟩ := h
  calc step s = ingressStep (.byte b) s.taken := step_takes h
    _ = exec (.rxIllegalLength s.cmd b) s.taken := ingressStep_len_illegal hp hb
    _ = _ := exec_rxIllegalLength_running s.cmd b hrun

/-- Settles O19: the ingress step on a transport error does not look at PHASE. -/
theorem transportErrorHalts : Obligations.TransportErrorHalts := fun _ _ h => step_takes h

/-- Settles O20, by the idle turn of the ingress agent. -/
theorem haltedOrStarvedTakesNothing : Obligations.HaltedOrStarvedTakesNothing := fun _ => step_idle

/-- Settles O28: each of the three rows in a running machine. -/
theorem byteClassesComplete : Obligations.ByteClassesComplete := fun _ b c l _ h =>
  ⟨exec_rxResyncByte_running b h, exec_rxIllegalLength_running c l h, routeUnknown_running h⟩

/-- Settles O30: every shape but a Request has its effect only in a running machine. -/
theorem haltedMachineRunsNoReceivedRow : Obligations.HaltedMachineRunsNoReceivedRow := fun _ _ => exec_halted

end Sys2Proof.Machine
end

section
/-! SUPPORT. What reaches a channel and what leaves HALT: no agent but the ingress machine and the spawner of its task writes what is
the ingress machine's own (`41_ingress.md` R160, R169). -/

namespace Sys2Proof.Machine

section
variable {s t : State}

/-- `t` has the ingress registers and the channel histories of `s`, and no symbol of `s` was taken out of RX. -/
abbrev State.KeepsIngress (s t : State) : Prop :=
  s.SameIngress t ∧ s.rx <+: t.rx ∧ t.rch.history = s.rch.history ∧ t.ech.history = s.ech.history

theorem State.KeepsIngress.refl (s : State) : s.KeepsIngress s :=
  ⟨⟨rfl, rfl, rfl, rfl, rfl, rfl, fun _ => rfl, rfl, rfl, rfl⟩, List.prefix_rfl, rfl, rfl⟩

/-- Another Response channel with the same history. -/
theorem State.KeepsIngress.with_rch {c : Channel Response} (h : c.history = s.rch.history) :
    s.KeepsIngress { s with rch := c } := by
  obtain ⟨hreg, hrx, _, he⟩ := State.KeepsIngress.refl s
  exact ⟨hreg, hrx, h, he⟩

/-- Another Event channel with the same history. -/
theorem State.KeepsIngress.with_ech {c : Channel Event} (h : c.history = s.ech.history) :
    s.KeepsIngress { s with ech := c } := by
  obtain ⟨hreg, hrx, hr, _⟩ := State.KeepsIngress.refl s
  exact ⟨hreg, hrx, hr, h⟩

theorem transmit_keepsIngress {k : Request} {p : List Byte} (ht : transmit k p s = .next t) : s.KeepsIngress t := by
  obtain ⟨_, _, _, _, rfl⟩ := transmit_next ht
  exact .refl s

theorem hostTurn_keepsIngress (ht : hostTurn s = .next t) : s.KeepsIngress t := by
  rcases hostTurn_next ht with ⟨rfl, _⟩ | ⟨_, _, _, ⟨_, rfl⟩ | ⟨f, q, hq, hf⟩⟩
  · exact .refl _
  · exact .with_rch rfl
  · have hdeq : Channel.history { s.rch with queue := q, woken := false, out := s.rch.out ++ [f] } = s.rch.history := by
      simp [Channel.history, hq]
    rcases hostInterpret_next hf with ⟨_, _, rfl⟩ | ⟨_, _, _, rfl⟩ <;> exact .with_rch (s := s) hdeq

/-- Every agent other than the ingress machine and the spawner of its task leaves the ingress machine alone. -/
theorem runMove_keepsIngress {m : Move} (hm : m ≠ .ingress) (hr : m ≠ .restart) (ht : runMove m s = .next t) :
    s.KeepsIngress t := by
  have same : s.KeepsIngress s := .refl s
  cases m with
  | ingress => exact absurd rfl hm
  | restart => exact absurd rfl hr
  | device sym =>
    obtain rfl := Host.Outcome.next.inj ht
    obtain ⟨hreg, _, hist⟩ := same
    exact ⟨hreg, List.prefix_append s.rx [sym], hist⟩
  | transport a => obtain rfl := Host.Outcome.next.inj ht; exact same
  | buffer bytes => obtain rfl := Host.Outcome.next.inj ht; exact same
  | request k p => exact transmit_keepsIngress (hostRequest_next ht).2
  | call c =>
    obtain ⟨_, _, u, hu, ht⟩ := hostCall_next ht
    have hkeep : s.KeepsIngress u := transmit_keepsIngress hu
    rcases ht with ⟨_, rfl⟩ | ⟨_, _, _, rfl⟩ <;> exact hkeep
  | host => exact hostTurn_keepsIngress ht
  | timeout => rcases hostTimeout_next ht with rfl | ⟨_, _, rfl⟩ <;> exact same
  | popResponse => obtain ⟨_, rfl⟩ := hostPop_next ht; exact .with_rch s.rch.pop_history.1
  | nextEvent => obtain ⟨_, rfl⟩ := nextEvent_next ht; exact .with_ech s.ech.waitAndPop_history.1
  | eventCaller =>
    rcases eventTurn_next ht with ⟨_, rfl⟩ | ⟨_, rfl⟩
    · exact same
    · exact .with_ech s.ech.waitAndPop_history.1
  | popEvent => obtain ⟨_, rfl⟩ := eventPop_next ht; exact .with_ech s.ech.pop_history.1

/-- RESTART keeps the channels (`60_exceptions.md` R307). -/
theorem restart_channels : s.restart.rch = s.rch ∧ s.restart.ech = s.ech := by
  by_cases hp : s.phase = .halt
  · simp [restart_halted s hp]
  · simp [restart_running s hp]

/-- No agent but the ingress machine adds a frame to a channel. -/
theorem runMove_history {m : Move} (hm : m ≠ .ingress) (ht : runMove m s = .next t) :
    t.rch.history = s.rch.history ∧ t.ech.history = s.ech.history := by
  by_cases hr : m = .restart
  · subst hr
    obtain rfl := Host.Outcome.next.inj ht
    obtain ⟨hrch, hech⟩ := restart_channels (s := s)
    exact ⟨congrArg _ hrch, congrArg _ hech⟩
  · obtain ⟨_, _, hist⟩ := runMove_keepsIngress hm hr ht
    exact hist

/-- The frame that `classify(CMD)` and the payload `d` make has entered the one channel it is for (`42_classify_route.md` R205). -/
abbrev State.Admits (s : State) (d : List Byte) (t : State) : Prop :=
  (∃ k, classify s.cfg s.cmd = .response k ∧
    t.rch.history = s.rch.history ++ [{ command := k, data := d }] ∧ t.ech = s.ech) ∨
  (∃ k, classify s.cfg s.cmd = .event k ∧
    t.ech.history = s.ech.history ++ [{ command := k, data := d }] ∧ t.rch = s.rch)

/-- An accepted frame enters its channel, or is dropped or discarded and leaves both histories alone. -/
theorem exec_accepted_history {d : List Byte} (hp : s.phase ≠ .halt) (ht : exec (acceptedInstr s.cfg s.cmd d) s = .next t) :
    (t.rch.history = s.rch.history ∧ t.ech.history = s.ech.history) ∨ s.Admits d t := by
  cases hk : classify s.cfg s.cmd with
  | response k =>
    obtain rfl := Host.Outcome.next.inj ((exec_accepted_response d hk hp).symm.trans ht)
    rcases s.rch.push_history Config.respDepth { command := k, data := d } with e | e
    · exact .inl ⟨e, rfl⟩
    · exact .inr (.inl ⟨k, hk, e, rfl⟩)
  | event k =>
    obtain rfl := Host.Outcome.next.inj ((exec_accepted_event d hk hp).symm.trans ht)
    rcases s.ech.push_history Config.evtDepth { command := k, data := d } with e | e
    · exact .inl ⟨rfl, e⟩
    · exact .inr (.inr ⟨k, hk, e, rfl⟩)
  | unknown =>
    obtain rfl := Host.Outcome.next.inj ((exec_accepted_unknown d hk hp).symm.trans ht)
    exact .inl ⟨rfl, rfl⟩

/-- Of the ingress machine's transitions only the acceptance of a candidate reaches a channel (`41_ingress.md` R169). -/
theorem ingressStep_history {sym : Symbol} (hp : s.phase ≠ .halt) (ht : ingressStep sym s = .next t) :
    (t.rch.history = s.rch.history ∧ t.ech.history = s.ech.history) ∨
    (sym = .byte s.acc ∧ s.phase = .chk ∧ ∃ d, s.buf.readBlock 0 s.len.toNat = some d ∧ s.Admits d t) := by
  rcases ingressStep_next hp ht with ⟨_, _, rfl⟩ | ⟨b, rfl, hb⟩
  · exact .inl ⟨rfl, rfl⟩
  rcases hb with ⟨_, _, rfl⟩ | ⟨_, _, rfl⟩ | ⟨_, rfl⟩ | ⟨_, _, rfl⟩ | ⟨_, _, rfl⟩ | ⟨_, _, rfl⟩ |
    ⟨_, _, rfl⟩ | ⟨hchk, rfl, d, hd, ht⟩
  case inr.inr.inr.inr.inr.inr.inr =>
    exact (exec_accepted_history hp ht).imp_right fun hadm => ⟨rfl, hchk, d, hd, hadm⟩
  all_goals exact .inl ⟨rfl, rfl⟩

end

/-- Settles O51: other agents' moves and idle turns keep both histories, and so does every ingress transition but the acceptance. -/
theorem framesBuiltOnlyByIngress : Obligations.FramesBuiltOnlyByIngress := by
  intro s t ht
  rcases step_kinds s with ⟨sym, htakes, e⟩ | ⟨_, _, e⟩ | ⟨m, ms, _, hm, e⟩ <;> rw [e] at ht
  · have ⟨_, hp, _⟩ := htakes
    refine (ingressStep_history (s := s.taken) hp ht).imp_right ?_
    rintro ⟨rfl, hchk, hadm⟩
    exact ⟨htakes, hchk, hadm⟩
  · obtain rfl := Host.Outcome.next.inj ht
    exact .inl ⟨rfl, rfl⟩
  · exact .inl (runMove_history (s := { s with sched := ms }) hm ht)

/-- Settles O55: a halted ingress agent has only idle turns, and of the other agents' moves only RESTART writes PHASE and ERR. -/
theorem haltLeftOnlyByRestart : Obligations.HaltLeftOnlyByRestart := by
  intro s t hp ht
  rcases step_kinds s with ⟨_, ⟨_, hrun, _⟩, _⟩ | ⟨_, _, e⟩ | ⟨m, ms, hs, hm, e⟩
  · exact absurd hp hrun
  · obtain rfl := Host.Outcome.next.inj (e.symm.trans ht)
    exact .inr ⟨hp, rfl, [], (List.append_nil _).symm⟩
  · by_cases hr : m = .restart
    · exact .inl (by simp [hs, hr])
    · obtain ⟨⟨hphase, _, _, _, _, herr, _⟩, ⟨l, hl⟩, _⟩ := runMove_keepsIngress hm hr (e.symm.trans ht)
      exact .inr ⟨hphase.trans hp, herr, l, hl.symm⟩

end Sys2Proof.Machine
end

section
/-! SUPPORT. The slice decoder's five checks (`41_ingress.md` R167) and what one flipped bit does to them (R168). -/

namespace Sys2Proof

/-- A slice too short for its checks. -/
theorem decodeFrame_truncated {w : List Byte} (h : w.length < Config.frameOverhead) : decodeFrame w = .error .truncated :=
  if_pos h

/-- A slice of the length its LENGTH `n` asks for has its payload before its last byte. -/
theorem take_of_frame_length {p : List Byte} {k : Byte} {n : Nat} (h : (p ++ [k]).length + 3 = Config.frameOverhead + n) :
    (p ++ [k]).take n = p :=
  List.take_left' (by simp [Config.frameOverhead] at h; omega)

/-- The checks after the first, on the fields of a slice. -/
theorem decodeFrame_fields (s c l k : Byte) (p : List Byte) :
    decodeFrame (s :: c :: l :: (p ++ [k])) =
      if s ≠ Config.startByte then .error .startByte
      else if Config.maxPayloadLen < l.toNat then .error .payloadLength
      else if (p ++ [k]).length + 3 ≠ Config.frameOverhead + l.toNat then .error .lengthMismatch
      else if checksum (s :: c :: l :: (p ++ [k]).take l.toNat) ≠ k then .error .checksum
      else .ok (c, (p ++ [k]).take l.toNat) := by
  have hlong : ¬ (s :: c :: l :: (p ++ [k])).length < Config.frameOverhead := by simp [Config.frameOverhead]
  have hinit : (s :: c :: l :: (p ++ [k])).dropLast = s :: c :: l :: p := List.dropLast_concat (l₁ := s :: c :: l :: p)
  have hlast : (s :: c :: l :: (p ++ [k])).getLastD 0#8 = k := List.getLastD_concat (l := s :: c :: l :: p)
  rw [decodeFrame, if_neg hlong]
  simp only [hinit, hlast, List.length_cons]
  by_cases hlen : (p ++ [k]).length + 3 = Config.frameOverhead + l.toNat
  · rw [take_of_frame_length hlen]
  · simp only [ne_eq, hlen, not_false_eq_true, if_true]

/-- A slice that begins with START and whose exclusive-or is not zero is refused by one of the checks 3 to 5: once LENGTH and the
slice's length are right, its last byte is not the checksum of the others. -/
theorem decodeFrame_refuses {c l k : Byte} {p : List Byte} (h : checksum (Config.startByte :: c :: l :: (p ++ [k])) ≠ 0#8) :
    decodeFrame (Config.startByte :: c :: l :: (p ++ [k])) = .error .payloadLength ∨
      decodeFrame (Config.startByte :: c :: l :: (p ++ [k])) = .error .lengthMismatch ∨
      decodeFrame (Config.startByte :: c :: l :: (p ++ [k])) = .error .checksum := by
  have hsum : checksum (Config.startByte :: c :: l :: p) ≠ k := fun e =>
    h (e ▸ checksum_append_checksum (Config.startByte :: c :: l :: p))
  rw [decodeFrame_fields, if_neg (not_not.2 rfl)]
  by_cases hl : Config.maxPayloadLen < l.toNat
  · exact .inl (if_pos hl)
  rw [if_neg hl]
  by_cases hlen : (p ++ [k]).length + 3 = Config.frameOverhead + l.toNat
  · exact .inr (.inr (by rw [if_neg (not_not.2 hlen), take_of_frame_length hlen, if_pos hsum]))
  · exact .inr (.inl (if_pos hlen))

/-- Settles O8: what follows the third byte is a block and the last byte, and the checks are made on these. -/
theorem decodeFrameFirstFailureWins : Obligations.DecodeFrameFirstFailureWins := by
  refine ⟨fun w => decodeFrame_truncated, fun s c l body h => ?_⟩
  rcases body.eq_nil_or_concat with rfl | ⟨p, k, rfl⟩
  · simp at h
  · rw [List.concat_eq_append, List.getLastD_concat]
    exact decodeFrame_fields s c l k p

end Sys2Proof

namespace Sys2Proof.Machine

/-- A slice of four bytes or more is three bytes, a block and a last byte. -/
theorem exists_fields {w : List Byte} (h : Config.frameOverhead ≤ w.length) : ∃ s c l p k, w = s :: c :: l :: (p ++ [k]) := by
  match w with
  | [] | [_] | [_, _] => simp [Config.frameOverhead] at h
  | s :: c :: l :: body =>
    rcases body.eq_nil_or_concat with rfl | ⟨p, k, rfl⟩
    · simp [Config.frameOverhead] at h
    · exact ⟨s, c, l, p, k, by simp⟩

/-- A flip at offset 1 or later keeps the first byte. -/
theorem flipBit_cons (b : Byte) (w : List Byte) (i n : Nat) : flipBit (b :: w) (i + 1) n = b :: flipBit w i n := rfl

/-- Settles O9: the flipped bit shows in the exclusive-or, which is zero for the frame; START and the slice's length stay. -/
theorem singleBitFlipRejected : Obligations.SingleBitFlipRejected := by
  intro w i n hwf hi hlt hn
  obtain ⟨c, p, _, rfl⟩ := eq_frame_of_frameWf hwf
  obtain ⟨j, rfl⟩ := Nat.exists_eq_add_of_le' hi
  obtain ⟨_, _, hzero⟩ := Laws.FrameShape.frame_shape c p
  have hsum : checksum (flipBit (frame c p) (j + 1) n) ≠ 0#8 := by
    rw [flipBit, checksum_modify_xor _ hlt, hzero]
    exact Byte.xor_twoPow_ne 0#8 hn
  have hstart : flipBit (frame c p) (j + 1) n = Config.startByte :: flipBit (frame c p).tail j n := flipBit_cons _ _ j n
  obtain ⟨s, c', l, q, k, hw⟩ := exists_fields (w := flipBit (frame c p) (j + 1) n) (by simp [flipBit])
  obtain rfl : Config.startByte = s := (List.cons.inj (hstart.symm.trans hw)).1
  rw [hw] at hsum ⊢
  exact ⟨hsum, decodeFrame_refuses hsum⟩

end Sys2Proof.Machine
end

section
/-! SUPPORT. The classifier as a lookup in the code tables (`42_classify_route.md` R181), and what the received rows leave unchanged
(R205, R207). -/

namespace Sys2Proof

/-- A byte that no table holds is unknown, whatever the tables are. -/
theorem classify_of_no_code {cfg : Config} {c : Byte} (hr : ∀ k, cfg.rsp k ≠ c) (he : ∀ k, cfg.evt k ≠ some c) :
    classify cfg c = .unknown := by
  cases hc : classify cfg c with
  | response k => exact absurd (classify_response hc) (hr k)
  | event k => exact absurd (classify_event hc) (he k)
  | unknown => rfl

/-- Settles O10: under R96 the lookup inverts both tables, and each of its answers but Unknown names a code. -/
theorem classifyIsTotalLookup : Obligations.ClassifyIsTotalLookup := by
  intro cfg c hcfg
  refine ⟨?_, fun _ => classify_of_evt hcfg, classify_of_no_code⟩
  rintro k rfl
  exact classify_rsp hcfg k

end Sys2Proof

namespace Sys2Proof.Machine

/-! Channels under a push (`43_channels.md` R221, R222). -/

section
variable {K : Type}

/-- `c'` has the dequeued frames of `c`, and the frames `c` holds at the head of its queue. -/
abbrev Channel.HeldBy (c c' : Channel K) : Prop := c'.out = c.out ∧ c.queue <+: c'.queue

theorem Channel.HeldBy.refl (c : Channel K) : c.HeldBy c := ⟨rfl, List.prefix_rfl⟩

/-- A push adds behind the frames that are queued, or drops the new one. -/
theorem Channel.heldBy_push (c : Channel K) (cap : Nat) (f : Frame K) : c.HeldBy (c.push cap f).2 := by
  refine ⟨c.push_out cap f, ?_⟩
  rcases c.push_cases cap f with ⟨_, hq, _⟩ | ⟨_, e⟩
  · exact hq ▸ List.prefix_append c.queue [f]
  · rw [e]

end

section
variable {i : Instr} {s t : State}

/-- Everything a received row can answer next: nothing in HALT, and in a running machine the one effect of its shape. -/
theorem exec_received_next (hi : i.direction = .rx) (h : exec i s = .next t) :
    (s.phase = .halt ∧ t = s) ∨
    (s.phase ≠ .halt ∧
      ((∃ k d, i = .ofResponse k d ∧
        t = { s with rch := (s.rch.push Config.respDepth { command := k, data := d }).2, phase := .seek }) ∨
       (∃ k d, i = .ofEvent k d ∧
        t = { s with ech := (s.ech.push Config.evtDepth { command := k, data := d }).2, phase := .seek }) ∨
       (∃ b, i = .rxResyncByte b ∧ t = { s with resyncCnt := satInc s.resyncCnt }) ∨
       (∃ c l, i = .rxIllegalLength c l ∧ t = s.halt .payloadLength) ∨
       (∃ c d, i = .rxUnknownId c d ∧ t = { s with unknownCnt := satInc s.unknownCnt, phase := .seek }))) := by
  by_cases hp : s.phase = .halt
  · exact .inl ⟨hp, Host.Outcome.next.inj (h.symm.trans (exec_halted hi hp))⟩
  refine .inr ⟨hp, ?_⟩
  have of_eq {u : State} (e : exec i s = .next u) : t = u := Host.Outcome.next.inj (h.symm.trans e)
  obtain ⟨f, rfl⟩ : ∃ f : Form, i = f.toInstr := ⟨i.form, (Form.toInstr_form i).symm⟩
  cases f with
  | request k p => simp [Form.toInstr] at hi
  | response k d => exact .inl ⟨k, d, rfl, of_eq ((exec_ofResponse k d s).trans (routeResponse_running k d hp))⟩
  | event k d => exact .inr (.inl ⟨k, d, rfl, of_eq ((exec_ofEvent k d s).trans (routeEvent_running k d hp))⟩)
  | resync b => exact .inr (.inr (.inl ⟨b, rfl, of_eq (exec_rxResyncByte_running b hp)⟩))
  | illegalLength c l => exact .inr (.inr (.inr (.inl ⟨c, l, rfl, of_eq (exec_rxIllegalLength_running c l hp)⟩)))
  | unknownId c d => exact .inr (.inr (.inr (.inr ⟨c, d, rfl, of_eq (routeUnknown_running hp)⟩)))

/-- No received row writes the candidate's registers, BUF, the checksum error count or the host side. -/
theorem exec_received_keeps (hi : i.direction = .rx) (h : exec i s = .next t) :
    (t.cmd = s.cmd ∧ t.len = s.len ∧ t.idx = s.idx ∧ t.acc = s.acc ∧ ∀ a, t.buf.read a = s.buf.read a) ∧
    t.chkerrCnt = s.chkerrCnt ∧ s.SameHost t := by
  have hhost : s.SameHost s := ⟨rfl, rfl, rfl, fun _ => rfl, rfl, rfl, rfl, rfl, rfl, rfl⟩
  rcases exec_received_next hi h with
    ⟨_, rfl⟩ | ⟨_, ⟨_, _, _, rfl⟩ | ⟨_, _, _, rfl⟩ | ⟨_, _, rfl⟩ | ⟨_, _, _, rfl⟩ | ⟨_, _, _, rfl⟩⟩ <;>
  exact ⟨⟨rfl, rfl, rfl, rfl, fun _ => rfl⟩, rfl, hhost⟩

/-- Whatever a received row does to a channel, the frames that have entered it stay. -/
theorem exec_received_channels (hi : i.direction = .rx) (h : exec i s = .next t) :
    s.rch.HeldBy t.rch ∧ s.ech.HeldBy t.ech := by
  rcases exec_received_next hi h with
    ⟨_, rfl⟩ | ⟨_, ⟨_, _, _, rfl⟩ | ⟨_, _, _, rfl⟩ | ⟨_, _, rfl⟩ | ⟨_, _, _, rfl⟩ | ⟨_, _, _, rfl⟩⟩
  case inr.inl => exact ⟨s.rch.heldBy_push _ _, .refl _⟩
  case inr.inr.inl => exact ⟨.refl _, s.ech.heldBy_push _ _⟩
  all_goals exact ⟨.refl _, .refl _⟩

/-- Each channel, ERR and each of the two counters is written by the rows of one shape only. -/
theorem exec_received_owner (hi : i.direction = .rx) (h : exec i s = .next t) :
    ((∀ k d, i ≠ .ofResponse k d) → t.rch = s.rch) ∧ ((∀ k d, i ≠ .ofEvent k d) → t.ech = s.ech) ∧
    ((∀ c l, i ≠ .rxIllegalLength c l) → t.err = s.err) ∧
    ((∀ c d, i ≠ .rxUnknownId c d) → t.unknownCnt = s.unknownCnt) ∧
    ((∀ b, i ≠ .rxResyncByte b) → t.resyncCnt = s.resyncCnt) := by
  rcases exec_received_next hi h with
    ⟨_, rfl⟩ | ⟨_, ⟨k, d, rfl, rfl⟩ | ⟨k, d, rfl, rfl⟩ | ⟨b, rfl, rfl⟩ | ⟨c, l, rfl, rfl⟩ | ⟨c, d, rfl, rfl⟩⟩
  · exact ⟨fun _ => rfl, fun _ => rfl, fun _ => rfl, fun _ => rfl, fun _ => rfl⟩
  · exact ⟨fun hne => absurd rfl (hne k d), fun _ => rfl, fun _ => rfl, fun _ => rfl, fun _ => rfl⟩
  · exact ⟨fun _ => rfl, fun hne => absurd rfl (hne k d), fun _ => rfl, fun _ => rfl, fun _ => rfl⟩
  · exact ⟨fun _ => rfl, fun _ => rfl, fun _ => rfl, fun _ => rfl, fun hne => absurd rfl (hne b)⟩
  · exact ⟨fun _ => rfl, fun _ => rfl, fun hne => absurd rfl (hne c l), fun _ => rfl, fun _ => rfl⟩
  · exact ⟨fun _ => rfl, fun _ => rfl, fun _ => rfl, fun hne => absurd rfl (hne c d), fun _ => rfl⟩

end

/-- Settles O29, part by part from what the one effect of each shape writes. -/
theorem receivedInstructionFrame : Obligations.ReceivedInstructionFrame := by
  intro i s t hi h
  obtain ⟨⟨hcmd, hlen, hidx, hacc, hbuf⟩, hchk, hhost⟩ := exec_received_keeps hi h
  obtain ⟨⟨hrout, hrq⟩, heout, heq⟩ := exec_received_channels hi h
  exact ⟨hcmd, hlen, hidx, hacc, hbuf, hchk, hhost, hrout, heout, hrq, heq, exec_received_owner hi h⟩

end Sys2Proof.Machine
end

section
/-! SUPPORT. First-in first-out (`43_channels.md` R232): what a step adds to the frames that have entered a channel and to those dequeued
from it. -/

namespace Sys2Proof.Machine

section
variable {s t : State}

/-- What was dequeued from either channel stays dequeued. -/
abbrev State.OutExtends (s t : State) : Prop := s.rch.out <+: t.rch.out ∧ s.ech.out <+: t.ech.out

/-- What has entered either channel keeps its order. -/
abbrev State.HistoryExtends (s t : State) : Prop := s.rch.history <+: t.rch.history ∧ s.ech.history <+: t.ech.history

theorem State.OutExtends.refl (s : State) : s.OutExtends s := ⟨List.prefix_rfl, List.prefix_rfl⟩

theorem State.HistoryExtends.refl (s : State) : s.HistoryExtends s := ⟨List.prefix_rfl, List.prefix_rfl⟩

theorem State.OutExtends.trans {u : State} (h : s.OutExtends u) (h' : u.OutExtends t) : s.OutExtends t :=
  ⟨h.1.trans h'.1, h.2.trans h'.2⟩

theorem State.HistoryExtends.trans {u : State} (h : s.HistoryExtends u) (h' : u.HistoryExtends t) : s.HistoryExtends t :=
  ⟨h.1.trans h'.1, h.2.trans h'.2⟩

/-- Of the ingress machine's transitions only an accepted frame reaches a channel, and it leaves the dequeued frames alone. -/
theorem outExtends_ingressStep {sym : Symbol} (hp : s.phase ≠ .halt) (ht : ingressStep sym s = .next t) : s.OutExtends t := by
  have same : s.OutExtends s := .refl s
  rcases ingressStep_next hp ht with ⟨_, _, rfl⟩ | ⟨b, _, hb⟩
  · exact same
  rcases hb with ⟨_, _, rfl⟩ | ⟨_, _, rfl⟩ | ⟨_, rfl⟩ | ⟨_, _, rfl⟩ | ⟨_, _, rfl⟩ | ⟨_, _, rfl⟩ |
    ⟨_, _, rfl⟩ | ⟨_, _, d, _, ht⟩
  case inr.inr.inr.inr.inr.inr.inr =>
    obtain ⟨⟨hr, _⟩, ⟨he, _⟩⟩ := exec_received_channels (acceptedInstr_direction s.cfg s.cmd d) ht
    exact ⟨hr ▸ List.prefix_rfl, he ▸ List.prefix_rfl⟩
  all_goals exact same

theorem outExtends_transmit {k : Request} {p : List Byte} (ht : transmit k p s = .next t) : s.OutExtends t := by
  obtain ⟨_, _, _, _, rfl⟩ := transmit_next ht
  exact .refl s

theorem outExtends_hostTurn (ht : hostTurn s = .next t) : s.OutExtends t := by
  rcases hostTurn_next ht with ⟨rfl, _⟩ | ⟨_, _, _, ⟨_, rfl⟩ | ⟨f, q, _, hf⟩⟩
  · exact .refl _
  · exact .refl s
  · have hdeq : s.rch.out <+: s.rch.out ++ [f] := List.prefix_append _ _
    rcases hostInterpret_next hf with ⟨_, _, rfl⟩ | ⟨_, _, _, rfl⟩ <;> exact ⟨hdeq, List.prefix_rfl⟩

/-- A consumer adds what it dequeues at the end of its record; no other agent touches the record. -/
theorem outExtends_runMove {m : Move} (hm : m ≠ .ingress) (ht : runMove m s = .next t) : s.OutExtends t := by
  have same : s.OutExtends s := .refl s
  cases m with
  | ingress => exact absurd rfl hm
  | device sym => obtain rfl := Host.Outcome.next.inj ht; exact same
  | transport a => obtain rfl := Host.Outcome.next.inj ht; exact same
  | buffer bytes => obtain rfl := Host.Outcome.next.inj ht; exact same
  | request k p => exact outExtends_transmit (hostRequest_next ht).2
  | call c =>
    obtain ⟨_, _, u, hu, ht⟩ := hostCall_next ht
    have hout : s.OutExtends u := outExtends_transmit hu
    rcases ht with ⟨_, rfl⟩ | ⟨_, _, _, rfl⟩ <;> exact hout
  | host => exact outExtends_hostTurn ht
  | timeout => rcases hostTimeout_next ht with rfl | ⟨_, _, rfl⟩ <;> exact same
  | popResponse => obtain ⟨_, rfl⟩ := hostPop_next ht; exact ⟨s.rch.pop_history.2, List.prefix_rfl⟩
  | nextEvent => obtain ⟨_, rfl⟩ := nextEvent_next ht; exact ⟨List.prefix_rfl, s.ech.waitAndPop_history.2⟩
  | eventCaller =>
    rcases eventTurn_next ht with ⟨_, rfl⟩ | ⟨_, rfl⟩
    · exact same
    · exact ⟨List.prefix_rfl, s.ech.waitAndPop_history.2⟩
  | popEvent => obtain ⟨_, rfl⟩ := eventPop_next ht; exact ⟨List.prefix_rfl, s.ech.pop_history.2⟩
  | restart =>
    obtain rfl := Host.Outcome.next.inj ht
    obtain ⟨hrch, hech⟩ := restart_channels (s := s)
    simp [State.OutExtends, hrch, hech]

theorem outExtends_step (ht : step s = .next t) : s.OutExtends t := by
  rcases step_kinds s with ⟨sym, ⟨_, hp, _⟩, e⟩ | ⟨_, _, e⟩ | ⟨m, ms, _, hm, e⟩ <;> rw [e] at ht
  · exact outExtends_ingressStep (s := s.taken) hp ht
  · obtain rfl := Host.Outcome.next.inj ht
    exact .refl s
  · exact outExtends_runMove (s := { s with sched := ms }) hm ht

/-- A step leaves both histories alone or adds one frame at the end of one (`41_ingress.md` R169). -/
theorem historyExtends_step (ht : step s = .next t) : s.HistoryExtends t := by
  rcases framesBuiltOnlyByIngress s t ht with ⟨hr, he⟩ | ⟨_, _, d, _, ⟨k, _, hr, he⟩ | ⟨k, _, he, hr⟩⟩
  · exact ⟨hr ▸ List.prefix_rfl, he ▸ List.prefix_rfl⟩
  · exact ⟨hr ▸ List.prefix_append _ _, he ▸ List.prefix_rfl⟩
  · exact ⟨hr ▸ List.prefix_rfl, he ▸ List.prefix_append _ _⟩

theorem runSteps_extends {n : Nat} (h : runSteps n s = .next t) : s.HistoryExtends t ∧ s.OutExtends t := by
  induction n generalizing s with
  | zero =>
    obtain rfl := Host.Outcome.next.inj h
    exact ⟨.refl s, .refl s⟩
  | succ n ih =>
    obtain ⟨u, hu, ht⟩ := runSteps_succ_next h
    obtain ⟨hhist, hout⟩ := ih ht
    exact ⟨(historyExtends_step hu).trans hhist, (outExtends_step hu).trans hout⟩

end

/-- Settles O50, by induction on the number of steps: each step extends the histories and the dequeued frames at their ends. -/
theorem channelsAreFifo : Obligations.ChannelsAreFifo := by
  intro n s t h
  obtain ⟨⟨hrhist, hehist⟩, hrout, heout⟩ := runSteps_extends h
  exact ⟨hrhist, hrout, hehist, heout⟩

end Sys2Proof.Machine
end

section
/-! SUPPORT. The operations on the channels (`43_channels.md`): what each does to the frames and to the waiter flag, each consumer's
move case by case, and that no operation on one channel sees the other (R233). -/

namespace Sys2Proof.Machine

/-! One channel (R221 to R227). -/

section
variable {K : Type} (c : Channel K)

theorem Channel.push_dropCnt_of_room {cap : Nat} (f : Frame K) (h : c.queue.length < cap) :
    (c.push cap f).2.dropCnt = c.dropCnt := by
  rcases c.push_cases cap f with ⟨_, _, hd, _⟩ | ⟨hfull, _⟩
  · exact hd
  · exact absurd h hfull

/-- The waiting consumer of an empty queue is woken by a push, and no other push changes its flag or its control point. -/
theorem Channel.push_wakes {cap : Nat} (f : Frame K) (hcap : 0 < cap) :
    (c.queue = [] ∧ c.wait = true → (c.push cap f).2.wait = false ∧ (c.push cap f).2.woken = true) ∧
    (c.queue ≠ [] ∨ c.wait = false → (c.push cap f).2.wait = c.wait ∧ (c.push cap f).2.woken = c.woken) := by
  rcases c.push_cases cap f with ⟨_, _, _, ⟨hq, hw, hwoken⟩ | ⟨hne, hkept⟩⟩ | ⟨hfull, e⟩
  · exact ⟨fun _ => hwoken, by simp [hq, hw]⟩
  · exact ⟨fun ⟨hq, hw⟩ => by simp [hq, hw] at hne, fun _ => hkept⟩
  · have hne : c.queue ≠ [] := by
      intro hq
      simp [hq, hcap] at hfull
    exact ⟨fun ⟨hq, _⟩ => absurd hq hne, fun _ => by simp [e]⟩

theorem Channel.pop_nil (h : c.queue = []) : c.pop = (none, c) := by simp [Channel.pop, h]

theorem Channel.pop_cons {f : Frame K} {q : List (Frame K)} (h : c.queue = f :: q) :
    c.pop = (some f, { c with queue := q, out := c.out ++ [f] }) := by simp [Channel.pop, h]

theorem Channel.waitAndPop_nil (h : c.queue = []) : c.waitAndPop = (none, { c with wait := true, woken := false }) := by
  simp [Channel.waitAndPop, h]

theorem Channel.waitAndPop_cons {f : Frame K} {q : List (Frame K)} (h : c.queue = f :: q) :
    c.waitAndPop = (some f, { c with queue := q, woken := false, out := c.out ++ [f] }) := by
  simp [Channel.waitAndPop, h]

/-- A waiter has not been woken (`43_channels.md` R227, R231). -/
theorem Channel.Inv.not_woken {c : Channel K} {cap : Nat} (h : c.Inv cap) (hw : c.wait = true) : c.woken = false := by
  obtain ⟨_, _, _, hwoken⟩ := h
  by_contra hk
  simpa [hw] using (hwoken (by simpa using hk)).2

/-- A woken consumer has a frame to obtain (`43_channels.md` R227). -/
theorem Channel.Inv.exists_head {c : Channel K} {cap : Nat} (h : c.Inv cap) (hk : c.woken = true) :
    ∃ f q, c.queue = f :: q := by
  obtain ⟨_, _, _, hwoken⟩ := h
  exact List.exists_cons_of_ne_nil (hwoken hk).1

end

/-- Settles O25: in a running machine the row is a push on RQ. -/
theorem responsePushedWithRoom : Obligations.ResponsePushedWithRoom := fun k d s hp hroom =>
  ⟨_, (exec_ofResponse k d s).trans (routeResponse_running k d hp),
    s.rch.push_queue_of_room _ hroom, s.rch.push_dropCnt_of_room _ hroom, s.rch.push_out _ _⟩

/-- Settles O26: in a running machine the row is a push on EQ. -/
theorem eventPushedWithRoom : Obligations.EventPushedWithRoom := fun k d s hp hroom =>
  ⟨_, (exec_ofEvent k d s).trans (routeEvent_running k d hp),
    s.ech.push_queue_of_room _ hroom, s.ech.push_dropCnt_of_room _ hroom, s.ech.push_out _ _⟩

/-- Settles O27: at the capacity a push counts the new frame and changes nothing else. -/
theorem fullChannelDropsNewFrame : Obligations.FullChannelDropsNewFrame := by
  refine ⟨fun k d s hp hfull => ?_, fun k d s hp hfull => ?_⟩
  · have hpush := s.rch.push_full { command := k, data := d } (cap := Config.respDepth) hfull.not_lt
    exact ⟨congrArg Prod.fst hpush, by rw [exec_ofResponse, routeResponse_running k d hp, hpush]⟩
  · have hpush := s.ech.push_full { command := k, data := d } (cap := Config.evtDepth) hfull.not_lt
    exact ⟨congrArg Prod.fst hpush, by rw [exec_ofEvent, routeEvent_running k d hp, hpush]⟩

/-- Settles O31: what a running row does to the waiter is what its push does. -/
theorem wakeExactlyOnEmptyPush : Obligations.WakeExactlyOnEmptyPush := by
  refine ⟨fun k d s t hp ht => ?_, fun k d s t hp ht => ?_⟩
  · rw [exec_ofResponse, routeResponse_running k d hp] at ht
    obtain rfl := Host.Outcome.next.inj ht
    exact s.rch.push_wakes _ (by decide)
  · rw [exec_ofEvent, routeEvent_running k d hp] at ht
    obtain rfl := Host.Outcome.next.inj ht
    exact s.ech.push_wakes _ (by decide)

/-! The consumers' moves, an equation for each case. -/

section
variable {s : State}

theorem hostPop_free (h : s.rch.busy = false) : hostPop s = .next { s with rch := s.rch.pop.2 } := by simp [hostPop, h]

theorem eventPop_free (h : s.ech.busy = false) : eventPop s = .next { s with ech := s.ech.pop.2 } := by simp [eventPop, h]

theorem hostPop_busy (h : s.rch.busy = true) : hostPop s = .refused .consumerBusy := by simp [hostPop, h]

theorem eventPop_busy (h : s.ech.busy = true) : eventPop s = .refused .consumerBusy := by simp [eventPop, h]

theorem nextEvent_free (h : s.ech.busy = false) : nextEvent s = .next { s with ech := s.ech.waitAndPop.2 } := by
  simp [nextEvent, h]

theorem nextEvent_busy (h : s.ech.busy = true) : nextEvent s = .refused .consumerBusy := by simp [nextEvent, h]

theorem eventTurn_woken (h : s.ech.woken = true) : eventTurn s = .next { s with ech := s.ech.waitAndPop.2 } := by
  simp [eventTurn, h]

theorem eventTurn_not_woken (h : s.ech.woken = false) : eventTurn s = .next s := by simp [eventTurn, h]

theorem hostTurn_idle (h : s.inflight = .idle) : hostTurn s = .next s := by simp [hostTurn, h]

theorem hostTurn_suspended (h : s.rch.wait = true) : hostTurn s = .next s := by
  cases hi : s.inflight <;> simp [hostTurn, hi, h]

section
variable {c : Command} (hi : s.inflight = .awaiting c) (hw : s.rch.wait = false)
include hi hw

theorem hostTurn_empty (hq : s.rch.queue = []) :
    hostTurn s = .next { s with rch := { s.rch with wait := true, woken := false } } := by
  simp [hostTurn, hi, hw, s.rch.waitAndPop_nil hq]

theorem hostTurn_dequeues {f : Frame Response} {q : List (Frame Response)} (hq : s.rch.queue = f :: q) :
    hostTurn s =
      hostInterpret c f { s with rch := { s.rch with queue := q, woken := false, out := s.rch.out ++ [f] } } := by
  simp [hostTurn, hi, hw, s.rch.waitAndPop_cons hq]

end

/-- When the expiry of the bounded wait is enabled, apart from a command in flight (`44_host_controller.md` R265). -/
abbrev State.Expires (s : State) : Prop := s.cfg.respTimeout = .bounded ∧ s.rch.wait = true ∧ s.rch.queue = []

theorem hostTimeout_idle (h : s.inflight = .idle) : hostTimeout s = .next s := by simp [hostTimeout, h]

theorem hostTimeout_expires {c : Command} (hi : s.inflight = .awaiting c) (h : s.Expires) :
    hostTimeout s = .next { s.answer .timeout with rch := s.rch.cancelWait, inflight := .idle } := by
  simp only [hostTimeout, hi]
  exact if_pos h

theorem hostTimeout_disabled {c : Command} (hi : s.inflight = .awaiting c) (h : ¬ s.Expires) : hostTimeout s = .next s := by
  simp only [hostTimeout, hi]
  exact if_neg h

end

/-- Settles O32: a consumer outside its wait pops, and `pop` is told by whether the queue has a head. -/
theorem popRemovesHead : Obligations.PopRemovesHead := by
  refine ⟨fun s ms hs hb => ?_, fun s ms hs hb => ?_⟩
  · have hstep : step s = .next { s with sched := ms, rch := s.rch.pop.2 } :=
      (step_cons hs).trans (hostPop_free (s := { s with sched := ms }) hb)
    exact ⟨fun hq => by rw [hstep, s.rch.pop_nil hq], fun f q hq => by rw [hstep, s.rch.pop_cons hq]⟩
  · have hstep : step s = .next { s with sched := ms, ech := s.ech.pop.2 } :=
      (step_cons hs).trans (eventPop_free (s := { s with sched := ms }) hb)
    exact ⟨fun hq => by rw [hstep, s.ech.pop_nil hq], fun f q hq => by rw [hstep, s.ech.pop_cons hq]⟩

/-- Settles O34: the turns of a waiting Host and of an EventCaller that has not been woken change nothing. -/
theorem suspendedConsumerHasNoStep : Obligations.SuspendedConsumerHasNoStep :=
  ⟨fun s ms hs hw => (step_cons hs).trans (hostTurn_suspended (s := { s with sched := ms }) hw),
    fun s ms hInv hs hw => (step_cons hs).trans (eventTurn_not_woken (s := { s with sched := ms }) (hInv.ech.not_woken hw))⟩

/-- Settles O35: a woken consumer's queue has a head, which its resumed `wait_and_pop` takes. -/
theorem wokenConsumerGetsOldest : Obligations.WokenConsumerGetsOldest := by
  intro s ms hInv hs hk
  obtain ⟨f, q, hq⟩ := hInv.ech.exists_head hk
  have hstep : step s = .next { s with sched := ms, ech := s.ech.waitAndPop.2 } :=
    (step_cons hs).trans (eventTurn_woken (s := { s with sched := ms }) hk)
  exact ⟨f, q, hq, by rw [hstep, s.ech.waitAndPop_cons hq]⟩

/-! Independence (`43_channels.md` R233): an operation on one channel commutes with replacing the other. -/

/-- The state with another Response channel. -/
def State.withRch (r : Channel Response) (s : State) : State := { s with rch := r }

/-- The state with another Event channel. -/
def State.withEch (e : Channel Event) (s : State) : State := { s with ech := e }

/-- The operation `op` neither reads nor writes what `f` replaces. -/
abbrev CommutesWith (f : State → State) (op : State → Host.Outcome State Fault Refusal) : Prop :=
  ∀ s, op (f s) = mapNext f (op s)

theorem mapNext_whenRunning {f : State → State} {s u : State} (h : (f s).phase = s.phase) :
    mapNext f (whenRunning s u) = whenRunning (f s) (f u) := by
  by_cases hp : s.phase = .halt
  · rw [whenRunning_halted hp, whenRunning_halted (h.trans hp)]; rfl
  · rw [whenRunning_running hp, whenRunning_running (h ▸ hp)]; rfl

/-- A move that commutes with `f` does so as a step, when `f` leaves the schedule alone. -/
theorem step_commutes {f : State → State} {s : State} {m : Move} {ms : List Move} (hs : s.sched = m :: ms)
    (hsched : (f s).sched = s.sched) (hturn : f { s with sched := ms } = { f s with sched := ms })
    (hm : CommutesWith f (runMove m)) : step (f s) = mapNext f (step s) := by
  rw [step_cons hs, step_cons (hsched.trans hs), ← hturn, hm]

section
variable (e : Channel Event)

theorem routeResponse_commutes_withEch (k : Response) (d : List Byte) :
    CommutesWith (State.withEch e) (routeResponse k d) := by
  intro s
  symm
  exact mapNext_whenRunning (f := State.withEch e) rfl

theorem hostPop_commutes_withEch : CommutesWith (State.withEch e) hostPop := by
  intro s
  cases hb : s.rch.busy with
  | true => rw [hostPop_busy hb]; exact hostPop_busy (s := s.withEch e) hb
  | false => rw [hostPop_free hb]; exact hostPop_free (s := s.withEch e) hb

theorem hostInterpret_commutes_withEch (c : Command) (f : Frame Response) :
    CommutesWith (State.withEch e) (hostInterpret c f) := by
  intro s
  unfold hostInterpret
  by_cases hskip : s.cfg.respMismatch = .skipUntilMatch ∧ f.command ≠ c.expected
  · rw [if_pos hskip]; exact if_pos hskip
  · rw [if_neg hskip]
    refine (if_neg hskip).trans ?_
    cases f.data <;> rfl

theorem hostTurn_commutes_withEch : CommutesWith (State.withEch e) hostTurn := by
  intro s
  cases hi : s.inflight with
  | idle => rw [hostTurn_idle hi]; exact hostTurn_idle (s := s.withEch e) hi
  | awaiting c =>
    cases hw : s.rch.wait with
    | true => rw [hostTurn_suspended hw]; exact hostTurn_suspended (s := s.withEch e) hw
    | false =>
      cases hq : s.rch.queue with
      | nil => rw [hostTurn_empty hi hw hq]; exact hostTurn_empty (s := s.withEch e) hi hw hq
      | cons f q =>
        rw [hostTurn_dequeues hi hw hq, ← hostInterpret_commutes_withEch]
        exact hostTurn_dequeues (s := s.withEch e) hi hw hq

theorem hostTimeout_commutes_withEch : CommutesWith (State.withEch e) hostTimeout := by
  intro s
  cases hi : s.inflight with
  | idle => rw [hostTimeout_idle hi]; exact hostTimeout_idle (s := s.withEch e) hi
  | awaiting c =>
    by_cases hx : s.Expires
    · rw [hostTimeout_expires hi hx]; exact hostTimeout_expires (s := s.withEch e) hi hx
    · rw [hostTimeout_disabled hi hx]; exact hostTimeout_disabled (s := s.withEch e) hi hx

end

section
variable (r : Channel Response)

theorem routeEvent_commutes_withRch (k : Event) (d : List Byte) :
    CommutesWith (State.withRch r) (routeEvent k d) := by
  intro s
  symm
  exact mapNext_whenRunning (f := State.withRch r) rfl

theorem eventPop_commutes_withRch : CommutesWith (State.withRch r) eventPop := by
  intro s
  cases hb : s.ech.busy with
  | true => rw [eventPop_busy hb]; exact eventPop_busy (s := s.withRch r) hb
  | false => rw [eventPop_free hb]; exact eventPop_free (s := s.withRch r) hb

theorem nextEvent_commutes_withRch : CommutesWith (State.withRch r) nextEvent := by
  intro s
  cases hb : s.ech.busy with
  | true => rw [nextEvent_busy hb]; exact nextEvent_busy (s := s.withRch r) hb
  | false => rw [nextEvent_free hb]; exact nextEvent_free (s := s.withRch r) hb

theorem eventTurn_commutes_withRch : CommutesWith (State.withRch r) eventTurn := by
  intro s
  cases hk : s.ech.woken with
  | true => rw [eventTurn_woken hk]; exact eventTurn_woken (s := s.withRch r) hk
  | false => rw [eventTurn_not_woken hk]; exact eventTurn_not_woken (s := s.withRch r) hk

end

/-- Settles O36: each row's push and each consumer's move commutes with replacing the other channel. -/
theorem channelsAreIndependent : Obligations.ChannelsAreIndependent := by
  refine ⟨fun k d s e => ?_, fun k d s r => ?_, fun m ms s e hm hs => ?_, fun m ms s r hm hs => ?_⟩
  · rw [exec_ofResponse, exec_ofResponse]
    exact routeResponse_commutes_withEch e k d s
  · rw [exec_ofEvent, exec_ofEvent]
    exact routeEvent_commutes_withRch r k d s
  · have hmove : CommutesWith (State.withEch e) (runMove m) := by
      simp only [List.mem_cons, List.not_mem_nil, or_false] at hm
      rcases hm with rfl | rfl | rfl
      · exact hostPop_commutes_withEch e
      · exact hostTurn_commutes_withEch e
      · exact hostTimeout_commutes_withEch e
    exact step_commutes hs rfl rfl hmove
  · have hmove : CommutesWith (State.withRch r) (runMove m) := by
      simp only [List.mem_cons, List.not_mem_nil, or_false] at hm
      rcases hm with rfl | rfl | rfl
      · exact nextEvent_commutes_withRch r
      · exact eventTurn_commutes_withRch r
      · exact eventPop_commutes_withRch r
    exact step_commutes hs rfl rfl hmove

end Sys2Proof.Machine
end

section
/-! SUPPORT. The Host's command transaction (`44_host_controller.md`): the call and its write, the turn on a dequeued Response, what
each method makes of the status byte, and the expiry of the wait; and `next_event`. -/

namespace Sys2Proof.Machine

/-! `wait_and_pop` by a consumer that is outside it (`43_channels.md` R224, R225). -/

section
variable {K : Type} {c : Channel K} (hb : c.busy = false)
include hb

theorem Channel.waitAndPop_free_nil (hq : c.queue = []) : c.waitAndPop = (none, { c with wait := true }) := by
  obtain ⟨_, hk⟩ := c.not_busy_iff.1 hb
  rw [c.waitAndPop_nil hq, hk]

/-- With an item `wait_and_pop` is `pop`. -/
theorem Channel.waitAndPop_free_cons {f : Frame K} {q : List (Frame K)} (hq : c.queue = f :: q) :
    c.waitAndPop = (some f, { c with queue := q, out := c.out ++ [f] }) := by
  obtain ⟨_, hk⟩ := c.not_busy_iff.1 hb
  rw [c.waitAndPop_cons hq, hk]

end

/-! The write of a Request that fails, and the calls of the command methods (R252 to R254, R258). -/

/-- A payload within the bound, a buffer that holds its frame and a transport that fails: the frame is encoded, a leading part of it
is sent and the caller gets the transport's error. -/
theorem transmit_fails (k : Request) {p : List Byte} {s : State} {n : Nat} {e : IoError} (hp : PayloadFits p)
    (hcap : 4 + p.length ≤ s.encCap) (hport : s.txPort = .fails n e) :
    transmit k p s = .next { s with
      enc := s.enc.writeBlock 0 (frame (s.cfg.req k) p), tx := s.tx ++ (frame (s.cfg.req k) p).take n
      results := s.results ++ [.ioError e] } := by
  rcases transmit_cases k p s with ⟨hlong, _⟩ | ⟨_, hshort, _⟩ | ⟨_, _, haccepts, _⟩ | ⟨_, _, n', e', hfails, h⟩
  · exact absurd hp (Nat.not_le.2 hlong)
  · exact absurd hcap (Nat.not_le.2 hshort)
  · simp [hport] at haccepts
  · obtain ⟨rfl, rfl⟩ := WriteAnswer.fails.inj (hport.symm.trans hfails)
    exact h

/-- A call within its own bounds is within the codec's. -/
theorem Call.payloadFits {c : Call} (h : c.fits = true) : PayloadFits c.payload := by
  cases c with
  | send bytes => exact (of_decide_eq_true h).trans (by decide)
  | reset | factoryReset | standby | rssi => exact Nat.zero_le _
  | txPower | channel | destinationNet | destinationAddress | mode => exact show 1 ≤ Config.maxPayloadLen by decide

section
variable {s : State} {c : Call}

theorem hostRequest_inFlight {cur : Command} {k : Request} {p : List Byte} (h : s.inflight = .awaiting cur) :
    hostRequest k p s = .refused .commandInFlight := by simp [hostRequest, h]

theorem hostCall_inFlight {cur : Command} (h : s.inflight = .awaiting cur) : hostCall c s = .refused .commandInFlight := by
  simp [hostCall, h]

theorem hostCall_over_bound (hi : s.inflight = .idle) (hf : c.fits = false) :
    hostCall c s = .fault (.encodeContract .payloadTooLong) := by simp [hostCall, hi, hf]

section
variable (hi : s.inflight = .idle) (hf : c.fits = true) (hcap : 4 + c.payload.length ≤ s.encCap)
include hi hf hcap

theorem hostCall_accepts (hport : s.txPort = .accepts) :
    hostCall c s = .next { s with
      enc := s.enc.writeBlock 0 (frame (s.cfg.req c.request) c.payload)
      tx := s.tx ++ frame (s.cfg.req c.request) c.payload, inflight := .awaiting c.command } := by
  have hwrite := transmit_accepts c.request (c.payloadFits hf) hcap hport
  simp [hostCall, hi, hf, hport, exec_ofRequest, hwrite]

theorem hostCall_fails {n : Nat} {e : IoError} (hport : s.txPort = .fails n e) :
    hostCall c s = .next { s with
      enc := s.enc.writeBlock 0 (frame (s.cfg.req c.request) c.payload)
      tx := s.tx ++ (frame (s.cfg.req c.request) c.payload).take n, results := s.results ++ [.ioError e] } := by
  have hwrite := transmit_fails c.request (c.payloadFits hf) hcap hport
  simp [hostCall, hi, hf, hport, exec_ofRequest, hwrite]

end

end

/-! Step 3 of a command, on the dequeued Response (R256, R257, R259). -/

section
variable {s : State} {c : Command} {f : Frame Response}

theorem hostInterpret_skips (hm : s.cfg.respMismatch = .skipUntilMatch) (hk : f.command ≠ c.expected) :
    hostInterpret c f s = .next s := if_pos ⟨hm, hk⟩

section
variable (h : s.cfg.respMismatch = .acceptAny ∨ f.command = c.expected)
include h

/-- A Response of the expected kind, and any under `accept_any`, is not skipped. -/
theorem not_skipped : ¬ (s.cfg.respMismatch = .skipUntilMatch ∧ f.command ≠ c.expected) := by
  rintro ⟨hm, hk⟩
  rcases h with ha | he
  · simp [hm] at ha
  · exact hk he

theorem hostInterpret_empty (hd : f.data = []) : hostInterpret c f s = .refused .emptyStatus := by
  simp only [hostInterpret, if_neg (not_skipped h), hd]

theorem hostInterpret_status {b : Byte} {d : List Byte} (hd : f.data = b :: d) :
    hostInterpret c f s = .next { s.answer (c.interpret s.cfg b) with inflight := .idle } := by
  simp only [hostInterpret, if_neg (not_skipped h), hd]

end

end

section
variable {s : State} {c : Command} {ms : List Move} (hs : s.sched = .host :: ms) (hi : s.inflight = .awaiting c)
  (hw : s.rch.wait = false)
include hs hi hw

theorem step_host_awaits (hq : s.rch.queue = []) :
    step s = .next { s with rch := { s.rch with wait := true, woken := false }, sched := ms } :=
  (step_cons hs).trans (hostTurn_empty (s := { s with sched := ms }) hi hw hq)

theorem step_host_dequeues {f : Frame Response} {q : List (Frame Response)} (hq : s.rch.queue = f :: q) :
    step s = hostInterpret c f
      { s with rch := { s.rch with queue := q, woken := false, out := s.rch.out ++ [f] }, sched := ms } :=
  (step_cons hs).trans (hostTurn_dequeues (s := { s with sched := ms }) hi hw hq)

end

/-! The readings of a status byte (R256, R261). -/

/-- What a success test answers, both ways. -/
theorem okWhen_decide (p : Prop) [Decidable p] :
    (p → okWhen (decide p) = .ok) ∧ (¬ p → okWhen (decide p) = .status .unit) :=
  ⟨fun h => by simp [okWhen, h], fun h => by simp [okWhen, h]⟩

/-- The status byte a `SendDataError` stands for: its code in `SDE_CODES`, or the byte that `Other` keeps. -/
def SendDataError.code (cfg : Config) : SendDataError → Byte
  | .ackTimeout => cfg.sdeCodes.ackTimeout
  | .invalidChannel => cfg.sdeCodes.invalidChannel
  | .channelBusy => cfg.sdeCodes.channelBusy
  | .moduleBusy => cfg.sdeCodes.moduleBusy
  | .payloadInvalid => cfg.sdeCodes.payloadInvalid
  | .other raw => raw

/-- No status byte is lost. -/
theorem code_sendDataError (cfg : Config) (b : Byte) : (sendDataError cfg b).code cfg = b := by
  unfold sendDataError
  split_ifs <;> simp [SendDataError.code, *]

/-- Under codes that differ a named variant is read from its own code. -/
theorem sendDataError_code {cfg : Config} (h : cfg.WellFormed) {e : SendDataError} (he : ∀ raw, e ≠ .other raw) :
    sendDataError cfg (e.code cfg) = e := by
  obtain ⟨_, _, hsde, _⟩ := h
  simp only [Config.sdeList, List.nodup_cons, List.mem_cons, List.not_mem_nil, or_false, not_or] at hsde
  obtain ⟨⟨_, _, _, _⟩, ⟨_, _, _⟩, ⟨_, _⟩, _, _⟩ := hsde
  cases e with
  | other raw => exact absurd rfl (he raw)
  | ackTimeout | invalidChannel | channelBusy | moduleBusy | payloadInvalid =>
    simp_all [sendDataError, SendDataError.code, eq_comm]

theorem sendDataError_eq_iff {cfg : Config} (h : cfg.WellFormed) {b : Byte} {e : SendDataError} (he : ∀ raw, e ≠ .other raw) :
    sendDataError cfg b = e ↔ b = e.code cfg := by
  constructor
  · rintro rfl
    exact (code_sendDataError cfg b).symm
  · rintro rfl
    exact sendDataError_code h he

theorem sendDataError_of_notMem {cfg : Config} {b : Byte} (h : b ∉ cfg.sdeList) : sendDataError cfg b = .other b := by
  simp only [Config.sdeList, List.mem_cons, List.not_mem_nil, or_false, not_or] at h
  obtain ⟨h1, h2, h3, h4, h5⟩ := h
  simp [sendDataError, h1, h2, h3, h4, h5]

/-! The statements. -/

/-- Settles O22: the row is a write that fails, after the frame was encoded into ENC. -/
theorem requestWriteErrorReported : Obligations.RequestWriteErrorReported := by
  intro k p s n e hp hcap hport
  exact ⟨_, (exec_ofRequest k p s).trans (transmit_fails k hp hcap hport), s.enc.read_frame _ p⟩

/-- Settles O33: `next_event` is `wait_and_pop`, told by whether EQ has a head. -/
theorem nextEventReturnsOrWaits : Obligations.NextEventReturnsOrWaits := by
  intro s ms hs hb
  have hstep : step s = .next { s with sched := ms, ech := s.ech.waitAndPop.2 } :=
    (step_cons hs).trans (nextEvent_free (s := { s with sched := ms }) hb)
  exact ⟨fun f q hq => by rw [hstep, Channel.waitAndPop_free_cons hb hq],
    fun hq => by rw [hstep, Channel.waitAndPop_free_nil hb hq]⟩

/-- Settles O37: the call's frame reads back from ENC, and the transport's answer decides what INFLIGHT and the results hold. -/
theorem callWritesRequest : Obligations.CallWritesRequest := by
  intro s c ms hs hi hf hcap
  obtain ⟨hframe, hbeyond⟩ := s.enc.read_frame (s.cfg.req c.request) c.payload
  exact ⟨_, hframe, hbeyond,
    fun hport => (step_cons hs).trans (hostCall_accepts (s := { s with sched := ms }) hi hf hcap hport),
    fun n e hport => (step_cons hs).trans (hostCall_fails (s := { s with sched := ms }) hi hf hcap hport)⟩

/-- Settles O38: neither move passes the test of INFLIGHT. -/
theorem secondCommandRefused : Obligations.SecondCommandRefused := fun s _ ms hi =>
  ⟨fun _ hs => (step_cons hs).trans (hostCall_inFlight (s := { s with sched := ms }) hi),
    fun _ _ hs => (step_cons hs).trans (hostRequest_inFlight (s := { s with sched := ms }) hi)⟩

/-- Settles O39: such a call is over the bound of `send`. -/
theorem sendOverLimitFaults : Obligations.SendOverLimitFaults := fun s _ ms hs hi hlong =>
  (step_cons hs).trans (hostCall_over_bound (s := { s with sched := ms }) hi (decide_eq_false (Nat.not_le.2 hlong)))

/-- Settles O40: the Host's turn is `wait_and_pop` on an empty RQ. -/
theorem hostAwaitsOnEmptyQueue : Obligations.HostAwaitsOnEmptyQueue := by
  intro s c ms hs hi hb hq
  obtain ⟨hw, hk⟩ := s.rch.not_busy_iff.1 hb
  simp [step_host_awaits hs hi hw hq, hk]

/-- Settles O41: the Host's turn dequeues the head and answers what its command reads in the status byte. -/
theorem successPredicates : Obligations.SuccessPredicates := by
  intro s c f q b d ms hs hi hw hq hd hkind
  refine ⟨c.interpret s.cfg b, ?_, ?_⟩
  · rw [step_host_dequeues hs hi hw hq]
    exact hostInterpret_status (s := { s with rch := _, sched := ms }) hkind hd
  · cases c with
    | send => exact ⟨fun h => if_pos h, fun h => if_neg h⟩
    | rssi => rfl
    | reset | factoryReset | standby | destinationNet | destinationAddress | mode | txPower | channel =>
      exact okWhen_decide _

/-- Settles O42: the Host's turn dequeues the head and stops there. -/
theorem mismatchedResponseSkipped : Obligations.MismatchedResponseSkipped :=
  fun _ _ _ _ _ hs hi hw hq hm hk => (step_host_dequeues hs hi hw hq).trans (hostInterpret_skips hm hk)

/-- Settles O43: the Host's turn finds no status byte in the head it dequeues. -/
theorem emptyResponseRefused : Obligations.EmptyResponseRefused :=
  fun _ _ _ _ _ hs hi hw hq hd hkind => (step_host_dequeues hs hi hw hq).trans (hostInterpret_empty hkind hd)

/-- Settles O44: a named variant is the answer for its own code only, and the remaining bytes are kept. -/
theorem sendDataErrorIsTotal : Obligations.SendDataErrorIsTotal := fun _ _ h =>
  ⟨sendDataError_eq_iff h (by simp), sendDataError_eq_iff h (by simp), sendDataError_eq_iff h (by simp),
    sendDataError_eq_iff h (by simp), sendDataError_eq_iff h (by simp), sendDataError_of_notMem⟩

/-- Settles O45: a bound and a suspended Host enable the expiry, and "never" disables it. -/
theorem timeoutCancelsWait : Obligations.TimeoutCancelsWait := by
  intro s c ms hs hi
  refine ⟨fun hbound hw hq => ?_, fun hnever => ?_⟩
  · exact (step_cons hs).trans (hostTimeout_expires (s := { s with sched := ms }) hi ⟨hbound, hw, hq⟩)
  · have hdisabled : ¬ { s with sched := ms }.Expires := fun ⟨hbound, _⟩ => by simp [hnever] at hbound
    exact (step_cons hs).trans (hostTimeout_disabled hi hdisabled)

end Sys2Proof.Machine
end

section
/-! SUPPORT. Ownership of the halves and the end of the halt (`60_exceptions.md` R307, R312): which moves dequeue from a channel or write
INFLIGHT, and what RESTART does. -/

namespace Sys2Proof.Machine

section
variable {s t : State}

/-- `t` has the dequeued frames and the INFLIGHT of `s`: no consumer has moved. -/
abbrev State.SameConsumers (s t : State) : Prop :=
  t.rch.out = s.rch.out ∧ t.ech.out = s.ech.out ∧ t.inflight = s.inflight

theorem State.SameConsumers.refl (s : State) : s.SameConsumers s := ⟨rfl, rfl, rfl⟩

/-- What differs between the consumers' parts of `s` and of `t` is owned by the agent whose turn `turn` is (`60_exceptions.md` R312). -/
abbrev State.ConsumersMovedBy (s : State) (turn : Option Move) (t : State) : Prop :=
  (t.rch.out ≠ s.rch.out → turn = some .host ∨ turn = some .popResponse) ∧
  (t.ech.out ≠ s.ech.out → turn = some .nextEvent ∨ turn = some .eventCaller ∨ turn = some .popEvent) ∧
  (t.inflight ≠ s.inflight → turn = some .host ∨ turn = some .timeout ∨ ∃ c, turn = some (.call c))

theorem State.SameConsumers.movedBy (h : s.SameConsumers t) (turn : Option Move) : s.ConsumersMovedBy turn t := by
  obtain ⟨hr, he, hi⟩ := h
  exact ⟨(absurd hr ·), (absurd he ·), (absurd hi ·)⟩

/-- The ingress machine has the producer halves only. -/
theorem ingressStep_sameConsumers {sym : Symbol} (hp : s.phase ≠ .halt) (ht : ingressStep sym s = .next t) :
    s.SameConsumers t := by
  have same : s.SameConsumers s := .refl s
  rcases ingressStep_next hp ht with ⟨_, _, rfl⟩ | ⟨b, _, hb⟩
  · exact same
  rcases hb with ⟨_, _, rfl⟩ | ⟨_, _, rfl⟩ | ⟨_, rfl⟩ | ⟨_, _, rfl⟩ | ⟨_, _, rfl⟩ | ⟨_, _, rfl⟩ |
    ⟨_, _, rfl⟩ | ⟨_, _, d, _, ht⟩
  case inr.inr.inr.inr.inr.inr.inr =>
    have hrx := acceptedInstr_direction s.cfg s.cmd d
    obtain ⟨⟨hr, _⟩, ⟨he, _⟩⟩ := exec_received_channels hrx ht
    obtain ⟨_, _, _, hi, _⟩ := exec_received_keeps hrx ht
    exact ⟨hr, he, hi⟩
  all_goals exact same

/-- Writing a Request leaves INFLIGHT to the method that calls for it. -/
theorem transmit_sameConsumers {k : Request} {p : List Byte} (ht : transmit k p s = .next t) : s.SameConsumers t := by
  obtain ⟨_, _, _, _, rfl⟩ := transmit_next ht
  exact .refl s

theorem hostTurn_ech (ht : hostTurn s = .next t) : t.ech = s.ech := by
  rcases hostTurn_next ht with ⟨rfl, _⟩ | ⟨_, _, _, ⟨_, rfl⟩ | ⟨_, _, _, hf⟩⟩
  · rfl
  · rfl
  · rcases hostInterpret_next hf with ⟨_, _, rfl⟩ | ⟨_, _, _, rfl⟩ <;> rfl

theorem restart_sameConsumers : s.SameConsumers s.restart := by
  by_cases hp : s.phase = .halt
  · rw [restart_halted s hp]; exact .refl s
  · rw [restart_running s hp]; exact .refl s

/-- Each agent's move writes at most the consumers' parts that the agent owns. -/
theorem runMove_consumersMovedBy {m : Move} (hm : m ≠ .ingress) (ht : runMove m s = .next t) :
    s.ConsumersMovedBy (some m) t := by
  have same : s.SameConsumers s := .refl s
  cases m with
  | ingress => exact absurd rfl hm
  | device sym => obtain rfl := Host.Outcome.next.inj ht; exact same.movedBy _
  | transport a => obtain rfl := Host.Outcome.next.inj ht; exact same.movedBy _
  | buffer bytes => obtain rfl := Host.Outcome.next.inj ht; exact same.movedBy _
  | request k p => exact (transmit_sameConsumers (hostRequest_next ht).2).movedBy _
  | restart => obtain rfl := Host.Outcome.next.inj ht; exact restart_sameConsumers.movedBy _
  | call c =>
    obtain ⟨_, _, u, hu, ht⟩ := hostCall_next ht
    obtain ⟨hr, he, _⟩ := transmit_sameConsumers hu
    rcases ht with ⟨_, rfl⟩ | ⟨_, _, _, rfl⟩ <;> exact ⟨(absurd hr ·), (absurd he ·), fun _ => .inr (.inr ⟨c, rfl⟩)⟩
  | host =>
    have he : t.ech.out = s.ech.out := congrArg _ (hostTurn_ech ht)
    exact ⟨fun _ => .inl rfl, (absurd he ·), fun _ => .inl rfl⟩
  | timeout =>
    rcases hostTimeout_next ht with rfl | ⟨_, _, rfl⟩
    · exact same.movedBy _
    · exact ⟨(absurd rfl ·), (absurd rfl ·), fun _ => .inr (.inl rfl)⟩
  | popResponse =>
    obtain ⟨_, rfl⟩ := hostPop_next ht
    exact ⟨fun _ => .inr rfl, (absurd rfl ·), (absurd rfl ·)⟩
  | nextEvent =>
    obtain ⟨_, rfl⟩ := nextEvent_next ht
    exact ⟨(absurd rfl ·), fun _ => .inl rfl, (absurd rfl ·)⟩
  | eventCaller =>
    rcases eventTurn_next ht with ⟨_, rfl⟩ | ⟨_, rfl⟩
    · exact same.movedBy _
    · exact ⟨(absurd rfl ·), fun _ => .inr (.inl rfl), (absurd rfl ·)⟩
  | popEvent =>
    obtain ⟨_, rfl⟩ := eventPop_next ht
    exact ⟨(absurd rfl ·), fun _ => .inr (.inr rfl), (absurd rfl ·)⟩

end

/-- Settles O53: an ingress turn moves no consumer, and any other move keeps the ingress registers and the counters (RESTART apart)
and the consumers' parts that are not its agent's. -/
theorem ownersOnly : Obligations.OwnersOnly := by
  intro s t ht
  rcases step_kinds s with ⟨sym, ⟨hturn, hp, _⟩, e⟩ | ⟨hturn, _, e⟩ | ⟨m, ms, hs, hm, e⟩ <;> rw [e] at ht
  · have hsame : s.SameConsumers t := ingressStep_sameConsumers (s := s.taken) hp ht
    exact ⟨fun hother => absurd hturn hother, hsame.movedBy _⟩
  · obtain rfl := Host.Outcome.next.inj ht
    exact ⟨fun hother => absurd hturn hother, (State.SameConsumers.refl s).movedBy _⟩
  · have hhead : s.sched.head? = some m := by rw [hs]; rfl
    rw [hhead]
    refine ⟨fun _ hrestart => ?_, runMove_consumersMovedBy (s := { s with sched := ms }) hm ht⟩
    have hr : m ≠ .restart := fun h => hrestart (congrArg some h)
    obtain ⟨hreg, _⟩ := runMove_keepsIngress (s := { s with sched := ms }) hm hr ht
    obtain ⟨hrdrop, hedrop, _⟩ := runMove_sameCounters (s := { s with sched := ms }) hm ht
    exact ⟨hreg, hrdrop, hedrop⟩

/-- Settles O46: the scheduled move is RESTART, told by whether PHASE is HALT. -/
theorem restartLeavesHalt : Obligations.RestartLeavesHalt := by
  intro s ms hs
  have hstep : step s = .next { s with sched := ms }.restart := step_cons hs
  refine ⟨fun hp => ?_, fun hp => ?_⟩
  · rw [hstep, restart_halted { s with sched := ms } hp]
    exact ⟨_, _, _, _, _, rfl⟩
  · rw [hstep, restart_running { s with sched := ms } hp]

end Sys2Proof.Machine
end
